-- ==== Sys2Proof/Word.lean ====
section
/-! DEFINITION. The byte and the frame of `00_scope.md` section 6: every value the block handles is an
unsigned byte (R22) or a sequence of them. -/

namespace Sys2Proof

/-- An 8-bit value, always read as the unsigned integer 0 to 255 (R22). -/
abbrev Byte := BitVec 8

/-- The whole payload of one datagram, first byte of the datagram first (R33, R45). -/
abbrev Frame := List Byte

end Sys2Proof
end

