-- ==== Sys2Proof/Config.lean ====
section
/-! DEFINITION. The parameters of the block (`00_scope.md` R5). All are DOC's literals but FRAME_MAX, which is
open: it is fixed when an instance is built (R132), at least 514, and 1472 where nothing else is said. -/

namespace Sys2Proof

/-- What is fixed when an instance is built. FRAME_MAX is held as the bytes it has beyond the 514 that its
constraint `FRAME_MAX >= 514` asks for (R5, D3), so that every `Config` meets the constraint. -/
structure Config where
  headroom : Nat
deriving DecidableEq, Repr

/-- DATA_MAX: the largest data payload of a valid DATA packet (R5). -/
def Config.dataMax : Nat := 512

/-- HDR_P: the header of RRQ and ERROR is the opcode alone (R5). -/
def Config.hdrP : Nat := 1

/-- HDR_B: the header of DATA and ACK is the opcode and the block (R5). -/
def Config.hdrB : Nat := 2

/-- DATA_FRAME_MAX: the largest valid DATA frame (R5). -/
def Config.dataFrameMax : Nat := 514

/-- FRAME_MAX: the capacity in bytes of each frame buffer (R5). -/
def Config.frameMax (c : Config) : Nat := Config.dataFrameMax + c.headroom

/-- The spec's default, FRAME_MAX = 1472 (R5). -/
def Config.standard : Config := { headroom := 958 }

end Sys2Proof
end

