-- ==== Sys2Proof/Syntax.lean ====
section
/-! DEFINITION. The packet value (`10_state.md` R20): the block's instructions are the four packet kinds that the
opcode byte selects (`30_encoding.md`, its opening), one constructor per row of the opcode table. -/

namespace Sys2Proof

/-- A packet value, a tagged variant with exactly four constructors (R20; four and not five, C1). A payload is
any byte sequence, possibly empty, and a block is any byte, 0 included. -/
inductive Instr where
  /-- RRQ, opcode 1: the filename, raw bytes to the end of the datagram (R50, R51). -/
  | rrq (filename : List Byte)
  /-- DATA, opcode 3: the block number and the data bytes (R49, R50). -/
  | data (block : Byte) (payload : List Byte)
  /-- ACK, opcode 4: the block number (R49). -/
  | ack (block : Byte)
  /-- ERROR, opcode 5: the message, raw bytes to the end of the datagram (R50, R51). -/
  | error (message : List Byte)
deriving DecidableEq, Repr

/-- The pseudo-instruction `EOT b`, a DATA with no data (R56). -/
def Instr.eot (block : Byte) : Instr := .data block []

/-- The predicate `last(p)`: p is DATA with fewer than 512 data bytes (R56). The block does not compute it; it
is the host's test for the end of a transfer (R135). -/
def Instr.last : Instr → Bool
  | .data _ payload => decide (payload.length < Config.dataMax)
  | .rrq _ => false
  | .ack _ => false
  | .error _ => false

end Sys2Proof
end

