-- ==== Sys2Proof/WellFormed.lean ====
section
/-! DEFINITION. Which packet values are valid (`10_state.md` R20). -/

namespace Sys2Proof

/-- `valid(p)` of R20: at most 512 data bytes in a DATA, at most FRAME_MAX - 1 payload bytes in an RRQ or an
ERROR, every ACK. -/
def Instr.valid (c : Config) : Instr → Bool
  | .rrq filename => decide (filename.length ≤ c.frameMax - 1)
  | .data _ payload => decide (payload.length ≤ Config.dataMax)
  | .ack _ => true
  | .error message => decide (message.length ≤ c.frameMax - 1)

end Sys2Proof
end

