-- ==== Sys2Proof/Decode.lean ====
section
/-! DEFINITION. The two pure functions of the codec: `decode`, the frame parser's (`40_decode.md` R66 to R72), and
`encode`, the frame builder's (`41_encode.md` R81 to R85), with the opcode map they share (`30_encoding.md` R52)
and the reading of a word of the opcode table. -/

namespace Sys2Proof

/-- The code RES.CAUSE takes (R111): NONE for a packet, else why the frame is no packet. -/
inductive Cause where
  | none
  | empty
  | badOpcode
  | short
deriving DecidableEq, Repr

/-- The numeric code of a cause (R111). -/
def Cause.code : Cause → BitVec 2
  | .none => 0#2
  | .empty => 1#2
  | .badOpcode => 2#2
  | .short => 3#2

/-- What `decode` returns: a packet, or Invalid with its cause (R65, R72). -/
inductive Parsed where
  | packet (p : Instr)
  | invalid (c : Cause)
deriving DecidableEq, Repr

/-- Why ENCODE refuses a packet (R85, R112). -/
inductive EncReason where
  /-- A DATA with more than 512 data bytes. -/
  | dataTooLong
  /-- An RRQ or ERROR whose frame would exceed FRAME_MAX bytes. -/
  | frameTooLong
deriving DecidableEq, Repr

/-- The opcode of RRQ (R52). -/
def opRRQ : Byte := 1#8

/-- The opcode of DATA (R52). -/
def opDATA : Byte := 3#8

/-- The opcode of ACK (R52). -/
def opACK : Byte := 4#8

/-- The opcode of ERROR (R52). -/
def opERROR : Byte := 5#8

/-- The opcode of a packet (R20). -/
def Instr.opcode : Instr → Byte
  | .rrq _ => opRRQ
  | .data _ _ => opDATA
  | .ack _ => opACK
  | .error _ => opERROR

/-- parse_RRQ: the filename is all bytes after the opcode (R68). -/
def parseRRQ (rest : List Byte) : Parsed := .packet (.rrq rest)

/-- parse_DATA: SHORT when no block byte stands after the opcode, else the block and all bytes after the 2-byte
header, however many (R69, R74, R76). -/
def parseDATA : List Byte → Parsed
  | [] => .invalid .short
  | block :: payload => .packet (.data block payload)

/-- parse_ACK: SHORT when no block byte stands after the opcode; bytes after the block are not read (R70, R75, R76). -/
def parseACK : List Byte → Parsed
  | [] => .invalid .short
  | block :: _ => .packet (.ack block)

/-- parse_ERROR: the message is all bytes after the opcode (R71). -/
def parseERROR (rest : List Byte) : Parsed := .packet (.error rest)

/-- The dispatch on all 8 bits of the opcode, given the bytes after it (R67, R48). -/
def dispatchOpcode (op : Byte) (rest : List Byte) : Parsed :=
  if op = opRRQ then parseRRQ rest
  else if op = opDATA then parseDATA rest
  else if op = opACK then parseACK rest
  else if op = opERROR then parseERROR rest
  else .invalid .badOpcode

/-- The function `decode` (R66): total on every byte sequence (R73). -/
def decodeFrame : Frame → Parsed
  | [] => .invalid .empty
  | op :: rest => dispatchOpcode op rest

/-- The reason ENCODE refuses a packet, if it does (R85, R112): one test, with one reason per kind (R114). -/
def encReason (c : Config) : Instr → Option EncReason
  | .rrq filename => if filename.length ≤ c.frameMax - 1 then none else some .frameTooLong
  | .data _ payload => if payload.length ≤ Config.dataMax then none else some .dataTooLong
  | .ack _ => none
  | .error message => if message.length ≤ c.frameMax - 1 then none else some .frameTooLong

/-- The bytes the formats of R46 lay out for a packet: header, then payload verbatim (R81 to R84, R50). -/
def layout : Instr → Frame
  | .rrq filename => opRRQ :: filename
  | .data block payload => opDATA :: block :: payload
  | .ack block => [opACK, block]
  | .error message => opERROR :: message

/-- The function `encode` (R81 to R84); it has no value on a packet that is not valid (R85). -/
def encode (c : Config) (p : Instr) : Option Frame :=
  match encReason c p with
  | none => some (layout p)
  | some _ => none

/-- The first `k` bytes of a word of the opcode table, its least significant byte first: bit 0 of the word is bit 0
of byte 0, and each later byte's bits count on from there (log entry 9). -/
def wordBytes : Nat → Nat → List Byte
  | 0, _ => []
  | k + 1, w => BitVec.ofNat 8 w :: wordBytes k (w / 256)

/-- The header length the first byte calls for: 2 for DATA and ACK, 1 for every other byte (R5, R54). -/
def headerLen : Frame → Nat
  | [] => 0
  | op :: _ => if op = opDATA ∨ op = opACK then Config.hdrB else Config.hdrP

/-- The frame a word of the opcode table stands for: its bytes, and zeros for what its header has beyond them
(log entry 9). -/
def frameOfWord (nbits w : Nat) : Frame :=
  let f := wordBytes ((nbits + 7) / 8) w
  f ++ List.replicate (headerLen f - f.length) 0#8

/-- What the decoder reads from a word of the opcode table; none where it answers Invalid. -/
def decodeTableWord (nbits w : Nat) : Option Instr :=
  match decodeFrame (frameOfWord nbits w) with
  | .packet p => some p
  | .invalid _ => none

end Sys2Proof
end

