-- ==== Sys2Proof/Machine/State.lean ====
section
/-! DEFINITION. The state of one DPC instance: every register of `10_state.md` R10, and beside them the instance's
configuration and the host's side of a run (the operations still to be issued and the results returned, R139). -/

namespace Sys2Proof.Machine

/-- One frame buffer: the bytes that have a value, at their offsets (R30). Canonical form: offsets strictly rising.
An unlisted offset has no value (R12, R15, R131), so no entry can equal what an unlisted offset reads as. -/
abbrev Memory := List Host.Cell

/-- The canonical form of a buffer: offsets strictly rising. -/
def Memory.wf : Memory → Bool
  | [] => true
  | [_] => true
  | x :: y :: m => decide (x.1 < y.1) && Memory.wf (y :: m)

/-- The two address spaces (R30). -/
inductive Space where
  /-- The receive buffer RXBUF, valid extent 0 to RXLEN-1. -/
  | rx
  /-- The transmit buffer TXBUF, valid extent 0 to TXLEN-1. -/
  | tx
deriving DecidableEq, Repr

/-- The decode result register RES (R13): V, CAUSE, KIND, BLK, POFF, PLEN. -/
structure Res where
  v : Bool
  cause : Cause
  kind : Byte
  blk : Byte
  poff : Nat
  plen : Nat
deriving DecidableEq, Repr

/-- The two sticky fault flags (R17). -/
structure Flt where
  seqDom : Bool
  encRef : Bool
deriving DecidableEq, Repr

/-- The block's faults (R112). A fault of the block does not stop it (R116): raising one sets its flag in FLT and is
reported to the host as the operation's result, and the step answers `next`. No step answers `fault`, since no
operation hangs, is stuck or is undefined (R110); safe. -/
inductive Fault where
  /-- SeqDomain: raised by SEQ.NEXT, SEQ.PREV and BLK.LOAD when their argument is 0, and carrying that argument
  (R104, R112); safe. -/
  | seqDomain (arg : Byte)
  /-- EncRefused: raised by ENCODE on a packet that is not valid, and carrying the reason (R85, R112); safe. -/
  | encRefused (reason : EncReason)
deriving DecidableEq, Repr

/-- Why a step answers no next state. -/
inductive Refusal where
  /-- Raised by `exec` for an instruction that has no meaning yet (there is none); safe. -/
  | notModelled (mnemonic : String)
  /-- Raised by DECODE for a frame longer than FRAME_MAX, which cannot be given to the block (R65, D17; U6: refuse
  at the boundary); safe. -/
  | frameTooLong
deriving DecidableEq, Repr

/-- The closed list of operations (R7). They have no encoding: an operation is a value of an enumerated type (D18). -/
inductive Op where
  /-- DECODE(f), R65. -/
  | decode (f : Frame)
  /-- ENCODE(p), R80. -/
  | encode (p : Instr)
  /-- SEQ.NEXT(n), R99. -/
  | seqNext (n : Byte)
  /-- SEQ.PREV(n), R100. -/
  | seqPrev (n : Byte)
  /-- BLK.LOAD(v), R101. -/
  | blkLoad (v : Byte)
  /-- BLK.INC, R102. -/
  | blkInc
  /-- BLK.DEC, R103. -/
  | blkDec
  /-- RESET, R130. -/
  | reset
deriving DecidableEq, Repr

/-- How an operation ended, as its host sees it (R110, R139). -/
inductive Reply where
  /-- Normal, with no value returned (a packet DECODE parsed is in RES). -/
  | done
  /-- Normal, with the byte SEQ.NEXT or SEQ.PREV returns (R99, R100). -/
  | byte (b : Byte)
  /-- DECODE's Invalid result: a normal completion that says the frame is no packet (R110). -/
  | invalid (c : Cause)
  /-- A fault, with the reason it reports (R112). -/
  | fault (f : Fault)
deriving DecidableEq, Repr

/-- The state. `rxbuf` to `flt` are R10's registers; `cfg` is the instance's configuration (R5, R132), which no
operation writes; `ops` and `replies` are the host's side of a run (R139): the operations it has yet to issue, next
one first, and the results returned to it, oldest first (log entries 1, 3 and 11). -/
structure State where
  cfg : Config
  rxbuf : Memory
  rxlen : Nat
  res : Res
  txbuf : Memory
  txlen : Nat
  blk : Byte
  flt : Flt
  ops : List Op
  replies : List Reply
deriving DecidableEq, Repr

/-- The state after reset (R10, R130): no frame received or built, RES = Invalid(EMPTY), BLK = 1, both flags clear.
FRAME_MAX is the spec's default, 1472 (R5). The host has issued nothing. -/
def State.reset : State :=
  { cfg := Config.standard
    rxbuf := []
    rxlen := 0
    res := { v := false, cause := .empty, kind := 0#8, blk := 0#8, poff := 0, plen := 0 }
    txbuf := []
    txlen := 0
    blk := 1#8
    flt := { seqDom := false, encRef := false }
    ops := []
    replies := [] }

end Sys2Proof.Machine
end

