-- ==== Sys2Proof/Machine/Flags.lean ====
section
/-! DEFINITION. What the status fields are set to: RES by a DECODE (`40_decode.md`: "flags written always means
fields of RES"), FLT by a fault (`60_exceptions.md` R112). -/

namespace Sys2Proof.Machine

/-- RES after a packet: V 1, CAUSE NONE and the kind's own fields (R13, R65). -/
def resPacket (kind blk : Byte) (poff plen : Nat) : Res :=
  { v := true, cause := .none, kind := kind, blk := blk, poff := poff, plen := plen }

/-- RES after an Invalid result: V 0, the cause, and every other field 0 (R13, R65). -/
def resInvalid (c : Cause) : Res :=
  { v := false, cause := c, kind := 0#8, blk := 0#8, poff := 0, plen := 0 }

/-- RES after an RRQ (R68): BLK 0, POFF 1. -/
def resRrq (filename : List Byte) : Res := resPacket opRRQ 0#8 Config.hdrP filename.length

/-- RES after a DATA (R69): the block byte, POFF 2. -/
def resData (block : Byte) (payload : List Byte) : Res :=
  resPacket opDATA block Config.hdrB payload.length

/-- RES after an ACK (R70): the block byte, POFF 2, PLEN 0 whatever follows the block byte (R75). -/
def resAck (block : Byte) : Res := resPacket opACK block Config.hdrB 0

/-- RES after an ERROR (R71): BLK 0, POFF 1. -/
def resError (message : List Byte) : Res := resPacket opERROR 0#8 Config.hdrP message.length

/-- RES after a DECODE, from what `decode` returned (R65). -/
def resOf : Parsed → Res
  | .packet (.rrq filename) => resRrq filename
  | .packet (.data block payload) => resData block payload
  | .packet (.ack block) => resAck block
  | .packet (.error message) => resError message
  | .invalid c => resInvalid c

/-- Set the flag of a fault; the other keeps its value (R112, R115). -/
def Flt.mark (f : Flt) : Fault → Flt
  | .seqDomain _ => { f with seqDom := true }
  | .encRefused _ => { f with encRef := true }

/-- Both flags clear, as only RESET makes them (R116, R130). -/
def fltClear : Flt := { seqDom := false, encRef := false }

end Sys2Proof.Machine
end

