-- ==== Sys2Proof/Machine/Ops.lean ====
section
/-! DEFINITION. The named operations over the two frame buffers and the registers, with raising a fault as one
shared operation. There is no return from one, because control goes nowhere (R115, R116). -/

namespace Sys2Proof.Machine

/-- The byte at an offset, none where nothing has a value there (R12, R15, R131). -/
def Memory.read : Memory → Nat → Option Byte
  | [], _ => none
  | (k, b) :: m, a => if k = a then some b else Memory.read m a

/-- Write one byte, keeping the offsets strictly rising. -/
def Memory.write : Memory → Nat → Byte → Memory
  | [], a, v => [(a, v)]
  | (k, b) :: m, a, v =>
    if a < k then (a, v) :: (k, b) :: m
    else if a = k then (a, v) :: m
    else (k, b) :: Memory.write m a v

/-- Write a sequence of bytes at ascending offsets from `i` (R31). -/
def Memory.writeBytes (m : Memory) : Nat → List Byte → Memory
  | _, [] => m
  | i, b :: bs => Memory.write (Memory.writeBytes m (i + 1) bs) i b

/-- Read `n` bytes at ascending offsets from `i` (R31); none where one of them has no value. -/
def Memory.readBytes (m : Memory) : Nat → Nat → Option (List Byte)
  | _, 0 => some []
  | i, n + 1 =>
    match Memory.read m i, Memory.readBytes m (i + 1) n with
    | some b, some bs => some (b :: bs)
    | _, _ => none

/-- The buffer of a space (R30). -/
def State.buffer (s : State) : Space → Memory
  | .rx => s.rxbuf
  | .tx => s.txbuf

/-- The valid extent of a space: offsets below it hold the frame (R30). -/
def State.extent (s : State) : Space → Nat
  | .rx => s.rxlen
  | .tx => s.txlen

/-- Put a buffer in place of a space's. -/
def State.setBuffer (s : State) : Space → Memory → State
  | .rx, m => { s with rxbuf := m }
  | .tx, m => { s with txbuf := m }

/-- Set the length register of a space. -/
def State.setExtent (s : State) : Space → Nat → State
  | .rx, n => { s with rxlen := n }
  | .tx, n => { s with txlen := n }

/-- `MemRead(S+i, n)` (R31): defined only inside the valid extent. It changes nothing (R36). -/
def State.memRead (s : State) (sp : Space) (i n : Nat) : Option (List Byte) :=
  if i + n ≤ s.extent sp then Memory.readBytes (s.buffer sp) i n else none

/-- `MemWrite(S+i, n, v)` (R31), with n the length of v. It is defined only inside FRAME_MAX, which both callers
have established: DECODE by its operand's length (R65), ENCODE by `valid` (R80). -/
def State.memWrite (s : State) (sp : Space) (i : Nat) (v : List Byte) : State :=
  s.setBuffer sp (Memory.writeBytes (s.buffer sp) i v)

/-- Take all values from a buffer: every byte of it becomes unspecified, which is to have no value (R131). -/
def State.discard (s : State) (sp : Space) : State := s.setBuffer sp []

/-- Put a whole frame into a space and set its length, as DECODE does with RX (R65) and ENCODE with TX (R80). A byte
the buffer held before is overwritten if its offset is below the new length and becomes unspecified if not, so the
frame is written into a buffer with no values. -/
def State.loadFrame (s : State) (sp : Space) (f : Frame) : State :=
  ((s.discard sp).memWrite sp 0 f).setExtent sp f.length

/-- Write all six fields of RES (R65). -/
def State.setRes (s : State) (r : Res) : State := { s with res := r }

/-- Write the counter register BLK (R101 to R103). -/
def State.setBlk (s : State) (b : Byte) : State := { s with blk := b }

/-- Return an operation's result to the host (R139). -/
def State.answer (s : State) (r : Reply) : State := { s with replies := s.replies ++ [r] }

/-- `raise F(info)` (`00_scope.md` section 6; R115): set the fault's flag, report it to the host, write nothing else.
The block goes on with the host's next operation (R116). -/
def State.raise (s : State) (f : Fault) : State := ({ s with flt := s.flt.mark f }).answer (.fault f)

/-- RESET's effect on the registers (R130): the reset values of R10, whatever they held before. -/
def State.clear (s : State) : State :=
  { s with
    rxbuf := []
    rxlen := 0
    res := resInvalid .empty
    txbuf := []
    txlen := 0
    blk := 1#8
    flt := fltClear }

/-- Take the operation the host issues next off its list; none when the run is over (R139). -/
def State.issueNext (s : State) : Option (Op × State) :=
  match s.ops with
  | [] => none
  | op :: rest => some (op, { s with ops := rest })

end Sys2Proof.Machine
end

