-- ==== Sys2Proof/Machine/Operands.lean ====
section
/-! DEFINITION. What the host reads of the block (`10_state.md` R13, R15; `20_memory.md` R30): the frames in the two
buffers, the decoded payload as a slice of RXBUF (R134), and the value RES stands for. No read changes the
state (R36). -/

namespace Sys2Proof.Machine

/-- The last frame given to DECODE, `RXBUF[0 .. RXLEN-1]` (R12). -/
def State.rxFrame (s : State) : Option Frame := s.memRead .rx 0 s.rxlen

/-- The last frame the encoder built, `TXBUF[0 .. TXLEN-1]` (R15). -/
def State.txFrame (s : State) : Option Frame := s.memRead .tx 0 s.txlen

/-- The decoded payload: the RES.PLEN bytes of RXBUF from RES.POFF (R13, R134). -/
def State.payload (s : State) : Option (List Byte) := s.memRead .rx s.res.poff s.res.plen

/-- `RES.value` (R13): Invalid when V is 0, else the packet that KIND, BLK and the payload make; none when KIND is no
opcode or the payload does not lie inside the frame, which no run reaches. -/
def State.resValue (s : State) : Option Parsed :=
  if s.res.v = false then some (.invalid s.res.cause)
  else if s.res.kind = opRRQ then s.payload.map fun p => .packet (.rrq p)
  else if s.res.kind = opDATA then s.payload.map fun p => .packet (.data s.res.blk p)
  else if s.res.kind = opACK then some (.packet (.ack s.res.blk))
  else if s.res.kind = opERROR then s.payload.map fun p => .packet (.error p)
  else none

end Sys2Proof.Machine
end

