-- ==== Sys2Proof/Machine/Kinds.lean ====
section
/-! DEFINITION. The meanings of the four packet kinds: what the kind parser the opcode dispatches to writes
(`40_decode.md` R68 to R71), with the frame already in RX (R65). A kind parser writes RES, and completes the DECODE
it runs in; it touches neither TX nor BLK nor FLT and raises no fault. -/

namespace Sys2Proof.Machine

/-- Complete a DECODE that found a packet: RES is written whole (R65) and the operation ends normally (R110). -/
def finishPacket (r : Res) (s : State) : Host.Outcome State Fault Refusal :=
  .next ((s.setRes r).answer .done)

/-- RRQ (R68). -/
def execRrq (filename : List Byte) (s : State) : Host.Outcome State Fault Refusal :=
  finishPacket (resRrq filename) s

/-- DATA (R69), of any length (R74) and any block (R76). -/
def execData (block : Byte) (payload : List Byte) (s : State) : Host.Outcome State Fault Refusal :=
  finishPacket (resData block payload) s

/-- ACK (R70), of any block (R76). -/
def execAck (block : Byte) (s : State) : Host.Outcome State Fault Refusal :=
  finishPacket (resAck block) s

/-- ERROR (R71): a received ERROR is a packet like any other, not a fault of the block. -/
def execError (message : List Byte) (s : State) : Host.Outcome State Fault Refusal :=
  finishPacket (resError message) s

end Sys2Proof.Machine
end

