-- ==== Sys2Proof/Machine/Dispatch.lean ====
section
/-! DEFINITION. The dispatch of the opcode table's four kinds to their meanings (R67). -/

namespace Sys2Proof.Machine

def exec (i : Instr) (s : State) : Host.Outcome State Fault Refusal :=
  match i with
  | .rrq filename => Sys2Proof.Machine.execRrq filename s
  | .data block payload => Sys2Proof.Machine.execData block payload s
  | .ack block => Sys2Proof.Machine.execAck block s
  | .error message => Sys2Proof.Machine.execError message s

end Sys2Proof.Machine
end

