-- ==== Sys2Proof/Machine/Sequencer.lean ====
section
/-! DEFINITION. The block-sequence counter (`42_sequencer.md`): the functions `next` and `prev`, the stateless ports
SEQ.NEXT and SEQ.PREV, and the operations of the counter register BLK. None touches RXBUF, RXLEN, RES, TXBUF or
TXLEN. -/

namespace Sys2Proof.Machine

/-- The function `next` (R96): modulo 255 over 1 to 255; no value at 0, the one byte outside its domain (R104). -/
def nextBlock (n : Byte) : Option Byte :=
  if n = 0#8 then none else if n = 255#8 then some 1#8 else some (n + 1#8)

/-- The function `prev` (R97); no value at 0 (R104). -/
def prevBlock (n : Byte) : Option Byte :=
  if n = 0#8 then none else if n = 1#8 then some 255#8 else some (n - 1#8)

/-- Return a byte to the host, or raise SeqDomain with the argument that has no result (R99, R100, R104). -/
def returnByte (arg : Byte) (result : Option Byte) (s : State) : Host.Outcome State Fault Refusal :=
  match result with
  | some m => .next (s.answer (.byte m))
  | none => .next (s.raise (.seqDomain arg))

/-- Write BLK, or raise SeqDomain and leave it (R101 to R104). -/
def writeBlk (arg : Byte) (result : Option Byte) (s : State) : Host.Outcome State Fault Refusal :=
  match result with
  | some m => .next ((s.setBlk m).answer .done)
  | none => .next (s.raise (.seqDomain arg))

/-- SEQ.NEXT(n) (R99): neither reads nor writes BLK. -/
def opSeqNext (n : Byte) (s : State) : Host.Outcome State Fault Refusal := returnByte n (nextBlock n) s

/-- SEQ.PREV(n) (R100): neither reads nor writes BLK. -/
def opSeqPrev (n : Byte) (s : State) : Host.Outcome State Fault Refusal := returnByte n (prevBlock n) s

/-- BLK.LOAD(v) (R101): 0 is refused by SeqDomain. -/
def opBlkLoad (v : Byte) (s : State) : Host.Outcome State Fault Refusal :=
  writeBlk v (if v = 0#8 then none else some v) s

/-- BLK.INC (R102). BLK is never 0 in a state a run reaches (R16); from one that holds 0 the operation would compute
next(0), and R104's fault stands (log entry 6). -/
def opBlkInc (s : State) : Host.Outcome State Fault Refusal := writeBlk s.blk (nextBlock s.blk) s

/-- BLK.DEC (R103), with the same note as BLK.INC. -/
def opBlkDec (s : State) : Host.Outcome State Fault Refusal := writeBlk s.blk (prevBlock s.blk) s

end Sys2Proof.Machine
end

