-- ==== Sys2Proof/Machine/Operations.lean ====
section
/-! DEFINITION. The operations of the codec, DECODE (`40_decode.md` R65) and ENCODE (`41_encode.md` R80), RESET
(`70_reset_and_hazards.md` R130), and the issue of any operation of the closed list (`00_scope.md` R7). -/

namespace Sys2Proof.Machine

/-- Complete a DECODE whose frame is no packet (R65, R115): RES is written whole and FLT is not touched. -/
def finishInvalid (c : Cause) (s : State) : Host.Outcome State Fault Refusal :=
  .next ((s.setRes (resInvalid c)).answer (.invalid c))

/-- DECODE(f) (R65): the frame goes into RX, then the kind parser its opcode selects writes RES, or the Invalid result
does. A frame longer than FRAME_MAX cannot be given to the block (D17). -/
def opDecode (f : Frame) (s : State) : Host.Outcome State Fault Refusal :=
  if f.length ≤ s.cfg.frameMax then
    match decodeFrame f with
    | .packet p => exec p (s.loadFrame .rx f)
    | .invalid c => finishInvalid c (s.loadFrame .rx f)
  else .refused .frameTooLong

/-- ENCODE(p) (R80): the frame of a valid packet goes into TX; any other packet raises EncRefused (R85). -/
def opEncode (p : Instr) (s : State) : Host.Outcome State Fault Refusal :=
  match encReason s.cfg p with
  | none => .next ((s.loadFrame .tx (layout p)).answer .done)
  | some reason => .next (s.raise (.encRefused reason))

/-- RESET (R130): it never faults. -/
def opReset (s : State) : Host.Outcome State Fault Refusal := .next (s.clear.answer .done)

/-- Perform one operation of the closed list (R7). -/
def issue (op : Op) (s : State) : Host.Outcome State Fault Refusal :=
  match op with
  | .decode f => opDecode f s
  | .encode p => opEncode p s
  | .seqNext n => opSeqNext n s
  | .seqPrev n => opSeqPrev n s
  | .blkLoad v => opBlkLoad v s
  | .blkInc => opBlkInc s
  | .blkDec => opBlkDec s
  | .reset => opReset s

end Sys2Proof.Machine
end

