-- ==== Sys2Proof/Machine/Step.lean ====
section
/-! DEFINITION. One step: the operation the host issues next, performed whole (`00_scope.md` R6, R8). -/

namespace Sys2Proof.Machine

/-- One step. With no operation issued nothing changes (R113, log entry 2). -/
def step (s : State) : Host.Outcome State Fault Refusal :=
  match s.issueNext with
  | none => .next s
  | some (op, s') => issue op s'

/-- `s` with the frame of a table word as the operand of a DECODE that the host issues next (log entry 9). -/
def State.withFetchWord (s : State) (nbits w : Nat) : State :=
  { s with ops := .decode (frameOfWord nbits w) :: s.ops }

end Sys2Proof.Machine
end

