-- ==== Sys2Proof/Safety.lean ====
section
/-! DEFINITION. What a run that has not gone wrong is (`60_exceptions.md` R116), and the invariants of the state that
the spec states (`10_state.md` R10, R13 to R16). -/

namespace Sys2Proof.Machine

/-- The safety predicate of R116: no fault has been raised since reset. -/
def State.faultFree (s : State) : Bool := !s.flt.seqDom && !s.flt.encRef

/-- Both buffers are in canonical form: offsets strictly rising. -/
def State.BuffersWf (s : State) : Prop := Memory.wf s.rxbuf = true ∧ Memory.wf s.txbuf = true

/-- A space holds a value at exactly the offsets of its valid extent, which lies inside FRAME_MAX (R10, R12, R15,
R30). -/
def State.ExtentHeld (s : State) (sp : Space) : Prop :=
  s.extent sp ≤ s.cfg.frameMax ∧ ∀ a, (Memory.read (s.buffer sp) a).isSome ↔ a < s.extent sp

/-- R14: `RES.value = decode(RXBUF[0 .. RXLEN-1])`. -/
def State.ResultMatches (s : State) : Prop :=
  ∃ f, s.rxFrame = some f ∧ s.resValue = some (decodeFrame f)

/-- The legal values of RES (R10, R13): on Invalid a cause other than NONE and every other field 0; on a packet cause
NONE, one of the four opcodes, BLK 0 for RRQ and ERROR, no payload for ACK, and a payload that begins after the header
and, but for ACK, ends where the frame ends. -/
def State.ResultLegal (s : State) : Prop :=
  (s.res.v = false →
    s.res.cause ≠ .none ∧ s.res.kind = 0#8 ∧ s.res.blk = 0#8 ∧ s.res.poff = 0 ∧ s.res.plen = 0) ∧
  (s.res.v = true →
    s.res.cause = .none ∧
    (((s.res.kind = 1#8 ∨ s.res.kind = 5#8) ∧ s.res.blk = 0#8 ∧ s.res.poff = 1 ∧ s.res.plen + 1 = s.rxlen) ∨
      (s.res.kind = 3#8 ∧ s.res.poff = 2 ∧ s.res.plen + 2 = s.rxlen) ∨
      (s.res.kind = 4#8 ∧ s.res.poff = 2 ∧ s.res.plen = 0 ∧ 2 ≤ s.rxlen)))

/-- TX holds no frame, or a frame the encoder built from a valid packet (R15, R80). -/
def State.TransmitBuilt (s : State) : Prop :=
  s.txlen = 0 ∨ ∃ p f, encode s.cfg p = some f ∧ s.txFrame = some f

/-- BLK is in 1 to 255 (R16). -/
def State.BlkLegal (s : State) : Prop := s.blk ≠ 0#8

/-- All the invariants of the state together. -/
structure State.Inv (s : State) : Prop where
  buffers : s.BuffersWf
  rx : s.ExtentHeld .rx
  tx : s.ExtentHeld .tx
  legal : s.ResultLegal
  result : s.ResultMatches
  built : s.TransmitBuilt
  blk : s.BlkLegal

/-- The receive buffer reads the same at every offset, and its length is the same. -/
def State.SameRx (s t : State) : Prop :=
  t.rxlen = s.rxlen ∧ ∀ a, Memory.read t.rxbuf a = Memory.read s.rxbuf a

/-- The transmit buffer reads the same at every offset, and its length is the same. -/
def State.SameTx (s t : State) : Prop :=
  t.txlen = s.txlen ∧ ∀ a, Memory.read t.txbuf a = Memory.read s.txbuf a

/-- A space holds a frame: its length register is the frame's length and each offset below it reads the frame's byte
(R12, R15). -/
def State.Holds (s : State) (sp : Space) (f : Frame) : Prop :=
  s.extent sp = f.length ∧ ∀ a (h : a < f.length), Memory.read (s.buffer sp) a = some f[a]

/-- All that `raise SeqDomain(0)` does: its flag is set and the fault is reported; nothing else is written (R115). -/
def State.SeqDomainOnly (s t : State) : Prop :=
  t.flt.seqDom = true ∧ t.flt.encRef = s.flt.encRef ∧ t.replies = s.replies ++ [.fault (.seqDomain 0#8)] ∧
  s.SameRx t ∧ s.SameTx t ∧ t.res = s.res ∧ t.blk = s.blk ∧ t.cfg = s.cfg

/-- All that `raise EncRefused(reason)` does: its flag is set and the reason is reported; nothing else is written
(R115). -/
def State.EncRefusedOnly (s t : State) (reason : EncReason) : Prop :=
  t.flt.encRef = true ∧ t.flt.seqDom = s.flt.seqDom ∧ t.replies = s.replies ++ [.fault (.encRefused reason)] ∧
  s.SameRx t ∧ s.SameTx t ∧ t.res = s.res ∧ t.blk = s.blk ∧ t.cfg = s.cfg

end Sys2Proof.Machine
end

