-- ==== Sys2Proof/Certificates/Slice0/Obligations.lean ====
section
/-! DEFINITION. The statements about the model for the provers, from the numbered rules of spec/. -/

open Sys2Proof Sys2Proof.Machine

/-- A sanity statement: frames written out in bytes from the spec's vectors (95_test_vectors.md DV1, DV4, DV8, DV12,
DV22, DV24, DV6, DV28, DV29) decode to what the vectors give. The last two clauses read words of the opcode table, whose
bit order and zero-filled header are the model's choice (log entry 9, DESIGN CHOICE): by it the word 3 of 8 bits is the
frame 03 00, a DATA, while the frame 03 alone is SHORT, as the third clause says. -/
def Obligations.SampleFramesDecode : Prop :=
  decodeFrame [] = .invalid .empty ∧
  decodeFrame [0x01#8, 0x66#8, 0x6F#8, 0x6F#8] = .packet (.rrq [0x66#8, 0x6F#8, 0x6F#8]) ∧
  decodeFrame [0x03#8] = .invalid .short ∧
  decodeFrame [0x03#8, 0x80#8, 0xFF#8] = .packet (.data 128#8 [0xFF#8]) ∧
  decodeFrame [0x04#8, 0x05#8, 0xAA#8, 0xBB#8] = .packet (.ack 5#8) ∧
  decodeFrame [0x05#8, 0x6E#8, 0x6F#8] = .packet (.error [0x6E#8, 0x6F#8]) ∧
  decodeFrame [0x02#8] = .invalid .badOpcode ∧
  decodeFrame [0x83#8, 0x01#8] = .invalid .badOpcode ∧
  decodeFrame [0x00#8, 0x03#8, 0x00#8, 0x01#8] = .invalid .badOpcode ∧
  decodeTableWord 8 0x03 = some (.data 0#8 []) ∧
  decodeTableWord 16 0xC804 = some (.ack 200#8)

/-- R72: `decode` returns Invalid in exactly three cases, each with its cause, and then RES is written as R65 says,
FLT is not touched and nothing else of the block changes. -/
def Obligations.InvalidInExactlyThreeCases : Prop :=
  (∀ (f : Frame) (c : Cause), decodeFrame f = .invalid c ↔
    (f = [] ∧ c = .empty) ∨
    (∃ op rest, f = op :: rest ∧ op ≠ 1#8 ∧ op ≠ 3#8 ∧ op ≠ 4#8 ∧ op ≠ 5#8 ∧ c = .badOpcode) ∨
    ((f = [3#8] ∨ f = [4#8]) ∧ c = .short)) ∧
  (∀ (s : State) (f : Frame) (c : Cause), f.length ≤ s.cfg.frameMax → decodeFrame f = .invalid c →
    ∃ t, opDecode f s = .next t ∧ t.Holds .rx f ∧
      t.res = { v := false, cause := c, kind := 0#8, blk := 0#8, poff := 0, plen := 0 } ∧
      t.resValue = some (.invalid c) ∧
      s.SameTx t ∧ t.blk = s.blk ∧ t.flt = s.flt ∧ t.cfg = s.cfg)

/-- The kind parsers of RRQ and ERROR (40_decode.md section 3), for every state and operand: each answers a next state
with its own values in RES, and every other register, and every byte of both buffers, as before. That a meaning is the
part of DECODE its kind parser does is the model's reading (log entry 8). -/
def Obligations.RrqAndErrorParsersComplete : Prop :=
  ∀ (payload : List Byte) (s : State),
    (∃ t, exec (.rrq payload) s = .next t ∧
      t.res = { v := true, cause := .none, kind := 1#8, blk := 0#8, poff := 1, plen := payload.length } ∧
      s.SameRx t ∧ s.SameTx t ∧ t.blk = s.blk ∧ t.flt = s.flt ∧ t.cfg = s.cfg) ∧
    (∃ t, exec (.error payload) s = .next t ∧
      t.res = { v := true, cause := .none, kind := 5#8, blk := 0#8, poff := 1, plen := payload.length } ∧
      s.SameRx t ∧ s.SameTx t ∧ t.blk = s.blk ∧ t.flt = s.flt ∧ t.cfg = s.cfg)

/-- The kind parsers of DATA and ACK (40_decode.md section 3), for every state, block and payload, with their frame
(log entry 8, as above). -/
def Obligations.DataAndAckParsersComplete : Prop :=
  ∀ (block : Byte) (payload : List Byte) (s : State),
    (∃ t, exec (.data block payload) s = .next t ∧
      t.res = { v := true, cause := .none, kind := 3#8, blk := block, poff := 2, plen := payload.length } ∧
      s.SameRx t ∧ s.SameTx t ∧ t.blk = s.blk ∧ t.flt = s.flt ∧ t.cfg = s.cfg) ∧
    (∃ t, exec (.ack block) s = .next t ∧
      t.res = { v := true, cause := .none, kind := 4#8, blk := block, poff := 2, plen := 0 } ∧
      s.SameRx t ∧ s.SameTx t ∧ t.blk = s.blk ∧ t.flt = s.flt ∧ t.cfg = s.cfg)

/-- R68: DECODE of a frame whose first byte is 1. -/
def Obligations.RrqFrameGivesFilename : Prop :=
  ∀ (s : State) (filename : List Byte), filename.length + 1 ≤ s.cfg.frameMax →
    ∃ t, opDecode (1#8 :: filename) s = .next t ∧
      t.res = { v := true, cause := .none, kind := 1#8, blk := 0#8, poff := 1, plen := filename.length } ∧
      t.payload = some filename ∧ t.resValue = some (.packet (.rrq filename)) ∧
      t.Holds .rx (1#8 :: filename) ∧ s.SameTx t ∧ t.blk = s.blk ∧ t.flt = s.flt ∧ t.cfg = s.cfg

/-- R69 and R74: DECODE of a frame whose first byte is 3, however long its data, and of the frame that is that byte
alone. -/
def Obligations.DataFrameGivesBlockAndData : Prop :=
  (∀ (s : State) (block : Byte) (data : List Byte), data.length + 2 ≤ s.cfg.frameMax →
    ∃ t, opDecode (3#8 :: block :: data) s = .next t ∧
      t.res = { v := true, cause := .none, kind := 3#8, blk := block, poff := 2, plen := data.length } ∧
      t.payload = some data ∧ t.resValue = some (.packet (.data block data)) ∧
      t.Holds .rx (3#8 :: block :: data) ∧ s.SameTx t ∧ t.blk = s.blk ∧ t.flt = s.flt ∧ t.cfg = s.cfg ∧
      (512 < data.length → (Instr.data block data).valid s.cfg = false ∧ (Instr.data block data).last = false)) ∧
  (∀ s : State, ∃ t, opDecode [3#8] s = .next t ∧
      t.res = { v := false, cause := .short, kind := 0#8, blk := 0#8, poff := 0, plen := 0 } ∧
      t.Holds .rx [3#8] ∧ s.SameTx t ∧ t.blk = s.blk ∧ t.flt = s.flt ∧ t.cfg = s.cfg)

/-- R70 and R75: DECODE of a frame whose first byte is 4, whatever follows its block byte, and of the frame that is that
byte alone. -/
def Obligations.AckFrameGivesBlock : Prop :=
  (∀ (s : State) (block : Byte) (extra : List Byte), extra.length + 2 ≤ s.cfg.frameMax →
    ∃ t, opDecode (4#8 :: block :: extra) s = .next t ∧
      t.res = { v := true, cause := .none, kind := 4#8, blk := block, poff := 2, plen := 0 } ∧
      t.payload = some [] ∧ t.resValue = some (.packet (.ack block)) ∧
      encode s.cfg (.ack block) = some [4#8, block] ∧
      t.Holds .rx (4#8 :: block :: extra) ∧ s.SameTx t ∧ t.blk = s.blk ∧ t.flt = s.flt ∧ t.cfg = s.cfg) ∧
  (∀ s : State, ∃ t, opDecode [4#8] s = .next t ∧
      t.res = { v := false, cause := .short, kind := 0#8, blk := 0#8, poff := 0, plen := 0 } ∧
      t.Holds .rx [4#8] ∧ s.SameTx t ∧ t.blk = s.blk ∧ t.flt = s.flt ∧ t.cfg = s.cfg)

/-- R71: DECODE of a frame whose first byte is 5. -/
def Obligations.ErrorFrameGivesMessage : Prop :=
  ∀ (s : State) (message : List Byte), message.length + 1 ≤ s.cfg.frameMax →
    ∃ t, opDecode (5#8 :: message) s = .next t ∧
      t.res = { v := true, cause := .none, kind := 5#8, blk := 0#8, poff := 1, plen := message.length } ∧
      t.payload = some message ∧ t.resValue = some (.packet (.error message)) ∧
      t.Holds .rx (5#8 :: message) ∧ s.SameTx t ∧ t.blk = s.blk ∧ t.flt = s.flt ∧ t.cfg = s.cfg

/-- R73: DECODE is total on the frames that fit and raises nothing, and what it leaves on the receive side depends on
the frame alone, whatever the two states it starts from hold (of RXBUF, the offsets below the frame's length, the only
ones R12 gives a value). No block byte makes a DATA or an ACK Invalid. -/
def Obligations.DecodeDependsOnFrameAlone : Prop :=
  (∀ (s : State) (f : Frame), f.length ≤ s.cfg.frameMax → ∃ t, opDecode f s = .next t ∧ t.flt = s.flt) ∧
  (∀ (s₁ s₂ t₁ t₂ : State) (f : Frame), opDecode f s₁ = .next t₁ → opDecode f s₂ = .next t₂ →
    t₁.res = t₂.res ∧ t₁.rxlen = t₂.rxlen ∧
      (∀ a, a < f.length → Memory.read t₁.rxbuf a = Memory.read t₂.rxbuf a) ∧
      t₁.payload = t₂.payload ∧ t₁.resValue = t₂.resValue) ∧
  (∀ (block : Byte) (rest : List Byte), (∃ p, decodeFrame (3#8 :: block :: rest) = .packet p) ∧
    (∃ p, decodeFrame (4#8 :: block :: rest) = .packet p))

/-- D17: a frame longer than FRAME_MAX cannot be given to the block; the model refuses it by name, and no other frame
(log entry 7). -/
def Obligations.OnlyOverlongFramesAreRefused : Prop :=
  ∀ (s : State) (f : Frame), opDecode f s = .refused .frameTooLong ↔ s.cfg.frameMax < f.length

/-- R81 and R84: ENCODE of an RRQ and of an ERROR, the refusal of a payload that does not fit included. The bytes
stored are offsets 0 to the payload's length of TX. -/
def Obligations.EncodeBuildsRrqAndError : Prop :=
  ∀ (s : State) (payload : List Byte),
    (payload.length ≤ s.cfg.frameMax - 1 →
      (∃ t, opEncode (.rrq payload) s = .next t ∧
        t.Holds .tx (1#8 :: payload) ∧ t.txFrame = some (1#8 :: payload) ∧ t.txlen = 1 + payload.length ∧
        s.SameRx t ∧ t.res = s.res ∧ t.blk = s.blk ∧ t.flt = s.flt ∧ t.cfg = s.cfg) ∧
      (∃ t, opEncode (.error payload) s = .next t ∧
        t.Holds .tx (5#8 :: payload) ∧ t.txFrame = some (5#8 :: payload) ∧ t.txlen = 1 + payload.length ∧
        s.SameRx t ∧ t.res = s.res ∧ t.blk = s.blk ∧ t.flt = s.flt ∧ t.cfg = s.cfg)) ∧
    (s.cfg.frameMax - 1 < payload.length →
      (∃ t, opEncode (.rrq payload) s = .next t ∧ s.EncRefusedOnly t .frameTooLong) ∧
      (∃ t, opEncode (.error payload) s = .next t ∧ s.EncRefusedOnly t .frameTooLong))

/-- R82 and R83: ENCODE of a DATA and of an ACK, the refusal of more than 512 data bytes included. The encoder does not
consult BLK, and block 0 is encoded like any other value. -/
def Obligations.EncodeBuildsDataAndAck : Prop :=
  ∀ (s : State) (block : Byte) (data : List Byte),
    (data.length ≤ 512 →
      ∃ t, opEncode (.data block data) s = .next t ∧
        t.Holds .tx (3#8 :: block :: data) ∧ t.txFrame = some (3#8 :: block :: data) ∧
        t.txlen = 2 + data.length ∧ 2 ≤ t.txlen ∧ t.txlen ≤ 514 ∧
        s.SameRx t ∧ t.res = s.res ∧ t.blk = s.blk ∧ t.flt = s.flt ∧ t.cfg = s.cfg) ∧
    (512 < data.length → ∃ t, opEncode (.data block data) s = .next t ∧ s.EncRefusedOnly t .dataTooLong) ∧
    (∃ t, opEncode (.ack block) s = .next t ∧
      t.Holds .tx [4#8, block] ∧ t.txFrame = some [4#8, block] ∧ t.txlen = 2 ∧
      s.SameRx t ∧ t.res = s.res ∧ t.blk = s.blk ∧ t.flt = s.flt ∧ t.cfg = s.cfg)

/-- R85: ENCODE of a packet that is not valid builds no frame, sets FLT.ENCREF and reports the reason of the packet's
kind; `encode` has no value on it. An ACK is never refused. The flag stays set until RESET. -/
def Obligations.EncodeRefusesInvalidPackets : Prop :=
  (∀ (s : State) (p : Instr), p.valid s.cfg = false →
    encode s.cfg p = none ∧
    ((∃ block data, p = .data block data ∧ 512 < data.length ∧
        ∃ t, opEncode p s = .next t ∧ s.EncRefusedOnly t .dataTooLong) ∨
      (∃ payload, (p = .rrq payload ∨ p = .error payload) ∧ s.cfg.frameMax < payload.length + 1 ∧
        ∃ t, opEncode p s = .next t ∧ s.EncRefusedOnly t .frameTooLong))) ∧
  (∀ (s t : State) (op : Op), s.flt.encRef = true → issue op s = .next t → op ≠ .reset → t.flt.encRef = true)

/-- R88: ENCODE reads no register: what it leaves in TX, and what it reports, depends on the packet alone (and on
FRAME_MAX, by which a packet is valid or not). From any two states, a valid packet leaves the same frame and length in TX
(of TXBUF, the offsets below the length, the only ones R15 gives a value) and the flags as they were; a packet that is not
valid raises the same fault with the same reason and leaves TX as it was. `encode` is injective on valid packets, which
the spec marks as derived. -/
def Obligations.EncodeReadsNoRegister : Prop :=
  (∀ (s₁ s₂ : State) (p : Instr), s₁.cfg = s₂.cfg → p.valid s₁.cfg = true →
    ∃ t₁ t₂, opEncode p s₁ = .next t₁ ∧ opEncode p s₂ = .next t₂ ∧
      t₁.txlen = t₂.txlen ∧ t₁.txFrame = t₂.txFrame ∧
      (∀ a, a < t₁.txlen → Memory.read t₁.txbuf a = Memory.read t₂.txbuf a) ∧
      t₁.flt = s₁.flt ∧ t₂.flt = s₂.flt) ∧
  (∀ (s₁ s₂ : State) (p : Instr), s₁.cfg = s₂.cfg → p.valid s₁.cfg = false →
    ∃ t₁ t₂ reason, opEncode p s₁ = .next t₁ ∧ opEncode p s₂ = .next t₂ ∧
      s₁.EncRefusedOnly t₁ reason ∧ s₂.EncRefusedOnly t₂ reason) ∧
  (∀ (c : Config) (p q : Instr) (f : Frame), encode c p = some f → encode c q = some f → p = q)

/-- The bytes R12, R15 and R131 leave unspecified have no value in the model, which is its choice (log entry 4): after a
DECODE none at or above RXLEN, after an ENCODE of a valid packet none at or above TXLEN, after RESET none at all, whatever
the buffers held before. -/
def Obligations.UnspecifiedBytesHaveNoValue : Prop :=
  (∀ (s t : State) (f : Frame), opDecode f s = .next t → ∀ a, t.rxlen ≤ a → Memory.read t.rxbuf a = none) ∧
  (∀ (s t : State) (p : Instr), p.valid s.cfg = true → opEncode p s = .next t →
    ∀ a, t.txlen ≤ a → Memory.read t.txbuf a = none) ∧
  (∀ (s t : State), opReset s = .next t → ∀ a, Memory.read t.rxbuf a = none ∧ Memory.read t.txbuf a = none)

/-- R47: the lengths of the frames the encoder builds, and the zero-length datagram, which is no packet. -/
def Obligations.BuiltFrameLengths : Prop :=
  (∀ (c : Config) (f : Frame),
    (∀ filename, encode c (.rrq filename) = some f →
      f.length = 1 + filename.length ∧ 1 ≤ f.length ∧ f.length ≤ c.frameMax) ∧
    (∀ block data, encode c (.data block data) = some f →
      f.length = 2 + data.length ∧ 2 ≤ f.length ∧ f.length ≤ 514) ∧
    (∀ block, encode c (.ack block) = some f → f.length = 2) ∧
    (∀ message, encode c (.error message) = some f →
      f.length = 1 + message.length ∧ 1 ≤ f.length ∧ f.length ≤ c.frameMax)) ∧
  (∀ (c : Config) (p : Instr), encode c p ≠ some [] ∧ decodeFrame [] ≠ .packet p)

/-- R86: the round trip. Every valid packet decodes back from its frame, in the functions and in the registers; the
converse holds for every frame that decodes to a valid packet but an ACK frame longer than 2 bytes, and `encode` refuses
a DATA with more than 512 data bytes. -/
def Obligations.EncodedPacketsDecodeBack : Prop :=
  (∀ (c : Config) (p : Instr), p.valid c = true → ∃ f, encode c p = some f ∧ decodeFrame f = .packet p) ∧
  (∀ (s t : State) (p : Instr), p.valid s.cfg = true → opEncode p s = .next t →
    ∃ f u, t.txFrame = some f ∧ opDecode f t = .next u ∧ u.resValue = some (.packet p)) ∧
  (∀ (c : Config) (f : Frame) (p : Instr), decodeFrame f = .packet p → p.valid c = true →
    (∀ block, p = .ack block → f.length = 2) → encode c p = some f) ∧
  (∀ (c : Config) (block : Byte) (data : List Byte), 512 < data.length → encode c (.data block data) = none)

/-- R87: every block byte, 0 included, is written by the encoder and returned by the decoder unchanged. -/
def Obligations.BlockByteSurvivesRoundTrip : Prop :=
  ∀ (s : State) (block : Byte) (data : List Byte) (p : Instr),
    (p = .ack block ∨ (p = .data block data ∧ data.length ≤ 512)) →
    ∃ t f u, opEncode p s = .next t ∧ t.txFrame = some f ∧ f[1]? = some block ∧
      opDecode f t = .next u ∧ u.res.v = true ∧ u.res.blk.toNat = block.toNat

/-- R96 and R99: SEQ.NEXT returns next(n), and raises SeqDomain on 0. -/
def Obligations.SeqNextReturnsSuccessor : Prop :=
  ∀ (s : State) (n : Byte),
    (n = 0#8 → ∃ t, opSeqNext n s = .next t ∧ s.SeqDomainOnly t) ∧
    (n ≠ 0#8 → ∃ t m, nextBlock n = some m ∧ opSeqNext n s = .next t ∧ t.replies = s.replies ++ [.byte m] ∧
      (n = 255#8 → m.toNat = 1) ∧ (n ≠ 255#8 → m.toNat = n.toNat + 1) ∧ 1 ≤ m.toNat ∧ m.toNat ≤ 255 ∧
      s.SameRx t ∧ s.SameTx t ∧ t.res = s.res ∧ t.blk = s.blk ∧ t.flt = s.flt ∧ t.cfg = s.cfg)

/-- R97 and R100: SEQ.PREV returns prev(n), and raises SeqDomain on 0. -/
def Obligations.SeqPrevReturnsPredecessor : Prop :=
  ∀ (s : State) (n : Byte),
    (n = 0#8 → ∃ t, opSeqPrev n s = .next t ∧ s.SeqDomainOnly t) ∧
    (n ≠ 0#8 → ∃ t m, prevBlock n = some m ∧ opSeqPrev n s = .next t ∧ t.replies = s.replies ++ [.byte m] ∧
      (n = 1#8 → m.toNat = 255) ∧ (n ≠ 1#8 → m.toNat + 1 = n.toNat) ∧ 1 ≤ m.toNat ∧ m.toNat ≤ 255 ∧
      s.SameRx t ∧ s.SameTx t ∧ t.res = s.res ∧ t.blk = s.blk ∧ t.flt = s.flt ∧ t.cfg = s.cfg)

/-- R101: BLK.LOAD writes any value but 0, on which it raises SeqDomain and leaves BLK. -/
def Obligations.BlkLoadWritesAllButZero : Prop :=
  ∀ (s : State) (v : Byte),
    (v = 0#8 → ∃ t, opBlkLoad v s = .next t ∧ s.SeqDomainOnly t) ∧
    (v ≠ 0#8 → ∃ t, opBlkLoad v s = .next t ∧ t.blk = v ∧
      s.SameRx t ∧ s.SameTx t ∧ t.res = s.res ∧ t.flt = s.flt ∧ t.cfg = s.cfg)

/-- R102: BLK.INC writes next(BLK) to BLK and nothing else, and 255 of them return BLK to its starting value. The
premise is the invariant that BLK is never 0 (R16), a statement of its own below. -/
def Obligations.BlkIncWritesSuccessor : Prop :=
  (∀ s : State, s.BlkLegal → ∃ t, opBlkInc s = .next t ∧ nextBlock s.blk = some t.blk ∧
    (s.blk = 255#8 → t.blk = 1#8) ∧ (s.blk ≠ 255#8 → t.blk.toNat = s.blk.toNat + 1) ∧
    s.SameRx t ∧ s.SameTx t ∧ t.res = s.res ∧ t.flt = s.flt ∧ t.cfg = s.cfg) ∧
  (∀ s : State, s.BlkLegal →
    ∃ run : Nat → State, run 0 = s ∧ (∀ k, opBlkInc (run k) = .next (run (k + 1))) ∧ (run 255).blk = s.blk)

/-- R103: BLK.DEC writes prev(BLK) to BLK and nothing else; after BLK.INC it leaves BLK unchanged, and BLK.INC after
it. -/
def Obligations.BlkDecWritesPredecessor : Prop :=
  (∀ s : State, s.BlkLegal → ∃ t, opBlkDec s = .next t ∧ prevBlock s.blk = some t.blk ∧
    (s.blk = 1#8 → t.blk = 255#8) ∧ (s.blk ≠ 1#8 → t.blk.toNat + 1 = s.blk.toNat) ∧
    s.SameRx t ∧ s.SameTx t ∧ t.res = s.res ∧ t.flt = s.flt ∧ t.cfg = s.cfg) ∧
  (∀ s : State, s.BlkLegal →
    (∃ t u, opBlkInc s = .next t ∧ opBlkDec t = .next u ∧ u.blk = s.blk) ∧
    (∃ t u, opBlkDec s = .next t ∧ opBlkInc t = .next u ∧ u.blk = s.blk))

/-- R104: 0 is the only byte `next` and `prev` have no value at, and an operation given it raises SeqDomain(0): its flag
is set, no result is produced, and BLK is not changed. -/
def Obligations.OnlyZeroIsOutsideTheDomain : Prop :=
  (∀ n : Byte, (nextBlock n = none ↔ n = 0#8) ∧ (prevBlock n = none ↔ n = 0#8)) ∧
  (∀ (s : State) (op : Op), op = .seqNext 0#8 ∨ op = .seqPrev 0#8 ∨ op = .blkLoad 0#8 →
    ∃ t, issue op s = .next t ∧ s.SeqDomainOnly t)

/-- R98, with the parts the spec marks as derived: `next` and `prev` are mutual inverses on 1 to 255, 0 is in the image
of neither, and k applications of `next` return n exactly when 255 divides k. -/
def Obligations.BlockNumbersCycleWithPeriod255 : Prop :=
  (∀ n : Byte, n ≠ 0#8 →
    (nextBlock n).bind prevBlock = some n ∧ (prevBlock n).bind nextBlock = some n ∧
    nextBlock n ≠ some n ∧ prevBlock n ≠ some n ∧ nextBlock n ≠ some 0#8 ∧ prevBlock n ≠ some 0#8) ∧
  (∀ (n : Byte) (k : Nat), n ≠ 0#8 →
    (Nat.iterate (fun o : Option Byte => o.bind nextBlock) k (some n) = some n ↔ 255 ∣ k))

/-- R17: a fault sets its flag, no operation but RESET clears one, and no operation reads one: from a state that differs
in its flags alone, every operation leaves the same in all but the flags. -/
def Obligations.FaultFlagsAreStickyAndUnread : Prop :=
  ∀ (s t : State) (op : Op), issue op s = .next t →
    (∀ n, t.replies = s.replies ++ [.fault (.seqDomain n)] → t.flt.seqDom = true) ∧
    (∀ r, t.replies = s.replies ++ [.fault (.encRefused r)] → t.flt.encRef = true) ∧
    (op ≠ .reset →
      (s.flt.seqDom = true → t.flt.seqDom = true) ∧ (s.flt.encRef = true → t.flt.encRef = true)) ∧
    (∀ g : Flt, ∃ u, issue op { s with flt := g } = .next u ∧ { u with flt := t.flt } = t)

/-- R110: every operation (but a DECODE of a frame that cannot be given) answers a next state and ends in one of three
ways, Invalid for DECODE alone and a fault for ENCODE, SEQ.NEXT, SEQ.PREV and BLK.LOAD alone. The premise on BLK is the
invariant of R16. That every operation adds one entry to the list of results is the model's choice (log entry 11). -/
def Obligations.EveryOperationEndsInOneOfThreeWays : Prop :=
  ∀ (s : State) (op : Op), s.BlkLegal → (∀ f, op = .decode f → f.length ≤ s.cfg.frameMax) →
    ∃ t r, issue op s = .next t ∧ t.replies = s.replies ++ [r] ∧
      (∀ c, r = .invalid c → ∃ f, op = .decode f) ∧
      (∀ b, r = .byte b → ∃ n, op = .seqNext n ∨ op = .seqPrev n) ∧
      (∀ e, r = .fault e →
        (∃ p, op = .encode p) ∨ (∃ n, op = .seqNext n ∨ op = .seqPrev n ∨ op = .blkLoad n))

/-- R115, a fault's part: an operation that reports a fault has written that fault's flag and nothing else, in every
state (log entry 11 for the form of the report). -/
def Obligations.FaultsWriteTheirFlagOnly : Prop :=
  ∀ (s t : State) (op : Op), issue op s = .next t →
    (∀ n, t.replies = s.replies ++ [.fault (.seqDomain n)] →
      n = 0#8 ∧ t = { s with flt := { s.flt with seqDom := true }, replies := t.replies }) ∧
    (∀ r, t.replies = s.replies ++ [.fault (.encRefused r)] →
      t = { s with flt := { s.flt with encRef := true }, replies := t.replies })

/-- R130: RESET, whatever the state before, leaves the reset values of R10, which the state after power-on has too, and
it is the only operation that clears a fault flag. -/
def Obligations.ResetLeavesResetValues : Prop :=
  (∀ s : State, ∃ t, opReset s = .next t ∧
    t.rxlen = 0 ∧ t.txlen = 0 ∧ t.blk = 1#8 ∧ t.flt = { seqDom := false, encRef := false } ∧
    t.res = { v := false, cause := .empty, kind := 0#8, blk := 0#8, poff := 0, plen := 0 } ∧
    State.reset.rxlen = t.rxlen ∧ State.reset.txlen = t.txlen ∧ State.reset.blk = t.blk ∧
    State.reset.flt = t.flt ∧ State.reset.res = t.res) ∧
  (∀ (s t : State) (op : Op), issue op s = .next t →
    ((s.flt.seqDom = true ∧ t.flt.seqDom = false) ∨ (s.flt.encRef = true ∧ t.flt.encRef = false)) → op = .reset)

/-- The state after reset meets every invariant below and has raised no fault. -/
def Obligations.ResetMeetsTheInvariant : Prop :=
  State.reset.Inv ∧ State.reset.faultFree = true

/-- Every step keeps the invariants of the state: both buffers canonical and holding a value at exactly the offsets below
their length (that a byte above it has no value is the model's choice, log entry 4), RES legal (R13) and equal to the
decoding of RXBUF (R14, which the spec marks as derived), TX empty or a built frame (R15), BLK never 0 (R16). -/
def Obligations.EveryStepKeepsTheInvariant : Prop :=
  ∀ s t : State, s.Inv → step s = .next t → t.Inv

/-- Every step keeps the canonical form of both buffers, with no other premise. -/
def Obligations.EveryStepKeepsBuffersCanonical : Prop :=
  ∀ s t : State, s.BuffersWf → step s = .next t → t.BuffersWf

/-- R16's invariant, which the spec marks as derived: BLK is never 0. -/
def Obligations.BlkIsNeverZero : Prop :=
  ∀ (s t : State) (op : Op), s.BlkLegal → issue op s = .next t → t.BlkLegal

/-- R14, which the spec marks as derived: at every moment RES.value is the decoding of RXBUF[0 .. RXLEN-1]. -/
def Obligations.ResultIsDecodingOfReceiveBuffer : Prop :=
  ∀ (s t : State) (op : Op), s.ResultMatches → issue op s = .next t → t.ResultMatches

/-- The "Written by" column of R10: only DECODE (and RESET) writes RXBUF, RXLEN and RES, only ENCODE (and RESET) TXBUF
and TXLEN, only BLK.LOAD, BLK.INC and BLK.DEC (and RESET) BLK, only ENCODE (and RESET) FLT.ENCREF, and only SEQ.NEXT,
SEQ.PREV and BLK.LOAD (and RESET) FLT.SEQDOM. The last takes as its premise the invariant that BLK is never 0 (R16), since
from BLK = 0 the model has BLK.INC and BLK.DEC raise SeqDomain (log entry 6). No operation writes the configuration, and
none but the issue itself touches the host's list of operations (log entries 1 and 3). -/
def Obligations.OperationsWriteOnlyTheirRegisters : Prop :=
  ∀ (s t : State) (op : Op), issue op s = .next t →
    t.cfg = s.cfg ∧ t.ops = s.ops ∧
    ((∀ f, op ≠ .decode f) → op ≠ .reset → s.SameRx t ∧ t.res = s.res) ∧
    ((∀ p, op ≠ .encode p) → op ≠ .reset → s.SameTx t) ∧
    ((∀ v, op ≠ .blkLoad v) → op ≠ .blkInc → op ≠ .blkDec → op ≠ .reset → t.blk = s.blk) ∧
    ((∀ p, op ≠ .encode p) → op ≠ .reset → t.flt.encRef = s.flt.encRef) ∧
    (s.BlkLegal → (∀ n, op ≠ .seqNext n) → (∀ n, op ≠ .seqPrev n) → (∀ v, op ≠ .blkLoad v) → op ≠ .reset →
      t.flt.seqDom = s.flt.seqDom)

/-- A step runs the decoded instruction: when the next operation is a DECODE of a frame that fits and decodes to a packet,
valid or not, the step is that packet's meaning, run with the operation taken off the host's list and the frame in RX
(log entries 1 and 8). -/
def Obligations.StepRunsTheDecodedPacket : Prop :=
  ∀ (s : State) (f : Frame) (rest : List Op) (p : Instr),
    s.ops = .decode f :: rest → f.length ≤ s.cfg.frameMax → decodeFrame f = .packet p →
    step s = exec p (State.loadFrame { s with ops := rest } .rx f)

/-- A step issues the next operation of the host's list (R38, R139), and changes nothing when there is none (R113); the
list is the model's (log entries 1 and 2). -/
def Obligations.StepIssuesTheNextOperation : Prop :=
  (∀ (s : State) (op : Op) (rest : List Op), s.ops = op :: rest → step s = issue op { s with ops := rest }) ∧
  (∀ s : State, s.ops = [] → step s = .next s)

/-- A word of the opcode table placed for the next step is the instruction that step runs (log entry 9). A word of at most
4112 bits has at most 514 bytes, which every frame buffer holds (R5). -/
def Obligations.PlacedTableWordIsRun : Prop :=
  ∀ (s : State) (nbits w : Nat) (p : Instr), decodeTableWord nbits w = some p →
    nbits ≤ 4112 →
    step (s.withFetchWord nbits w) = exec p (s.loadFrame .rx (frameOfWord nbits w))

/-- R139: a run is a finite list of operations and ends when its last has taken its step. From every state, a list whose
frames can be given runs to its end in as many steps as it has operations, and each returns one result (log entries 1
and 11). -/
def Obligations.EveryRunCompletes : Prop :=
  ∀ (s : State) (ops : List Op), (∀ f, Op.decode f ∈ ops → f.length ≤ s.cfg.frameMax) →
    ∃ t, Host.Core.run Sys2Proof.core ops.length { s with ops := ops } = .next t ∧
      t.ops = [] ∧ t.replies.length = s.replies.length + ops.length ∧ t.cfg = s.cfg

/-- R134: the decoded payload and RES.value live until the next DECODE or RESET, and the frame in TX until the next
successful ENCODE or RESET (which the spec marks as derived). -/
def Obligations.PayloadLivesUntilTheNextDecode : Prop :=
  ∀ (s t : State) (op : Op), issue op s = .next t → op ≠ .reset →
    ((∀ f, op ≠ .decode f) → t.payload = s.payload ∧ t.resValue = s.resValue ∧ t.rxFrame = s.rxFrame) ∧
    ((∀ p, op = .encode p → p.valid s.cfg = false) → t.txFrame = s.txFrame)
end

