-- ==== Sys2Proof/Laws/Decode.lean ====
section
/-! SUPPORT. The laws of the decoder and the encoder: one equation per opcode, and what `encode` answers. -/

namespace Sys2Proof

@[simp] theorem decodeFrame_nil : decodeFrame [] = .invalid .empty := (rfl)

@[simp] theorem decodeFrame_one (rest : List Byte) : decodeFrame (1#8 :: rest) = .packet (.rrq rest) := (rfl)

@[simp] theorem decodeFrame_three_nil : decodeFrame [3#8] = .invalid .short := (rfl)

@[simp] theorem decodeFrame_three (block : Byte) (rest : List Byte) :
    decodeFrame (3#8 :: block :: rest) = .packet (.data block rest) := (rfl)

@[simp] theorem decodeFrame_four_nil : decodeFrame [4#8] = .invalid .short := (rfl)

@[simp] theorem decodeFrame_four (block : Byte) (rest : List Byte) :
    decodeFrame (4#8 :: block :: rest) = .packet (.ack block) := (rfl)

@[simp] theorem decodeFrame_five (rest : List Byte) : decodeFrame (5#8 :: rest) = .packet (.error rest) := (rfl)

/-- The default arm of the dispatch (R67). -/
theorem decodeFrame_other (op : Byte) (rest : List Byte) (h1 : op ≠ 1#8) (h3 : op ≠ 3#8) (h4 : op ≠ 4#8) (h5 : op ≠ 5#8) :
    decodeFrame (op :: rest) = .invalid .badOpcode := by
  simp [decodeFrame, dispatchOpcode, opRRQ, opDATA, opACK, opERROR, h1, h3, h4, h5]

/-- Every frame falls under exactly one arm of the parser: what a case split on a frame can use instead of unfolding
the decoder. -/
theorem frame_cases {P : Frame → Prop} (nil : P []) (rrq : ∀ p, P (1#8 :: p)) (dataShort : P [3#8])
    (data : ∀ b p, P (3#8 :: b :: p)) (ackShort : P [4#8]) (ack : ∀ b p, P (4#8 :: b :: p)) (error : ∀ p, P (5#8 :: p))
    (other : ∀ op p, op ≠ 1#8 → op ≠ 3#8 → op ≠ 4#8 → op ≠ 5#8 → P (op :: p)) (f : Frame) : P f := by
  rcases f with _ | ⟨op, rest⟩
  · exact nil
  by_cases h1 : op = 1#8
  · exact h1 ▸ rrq rest
  by_cases h3 : op = 3#8
  · subst h3
    rcases rest with _ | ⟨b, p⟩
    · exact dataShort
    · exact data b p
  by_cases h4 : op = 4#8
  · subst h4
    rcases rest with _ | ⟨b, p⟩
    · exact ackShort
    · exact ack b p
  by_cases h5 : op = 5#8
  · exact h5 ▸ error rest
  exact other op rest h1 h3 h4 h5

/-- FRAME_MAX is at least 514 (R5). -/
theorem Config.dataFrameMax_le (c : Config) : 514 ≤ c.frameMax := by
  simp [Config.frameMax, Config.dataFrameMax]

/-- ENCODE's test is `valid` (R80, R20). -/
theorem encReason_eq_none_iff (c : Config) (p : Instr) : encReason c p = none ↔ p.valid c = true := by
  cases p <;> simp [encReason, Instr.valid]

/-- `encode` has a value exactly on the valid packets, and it is the packet's layout (R81 to R85). -/
theorem encode_eq_some_iff (c : Config) (p : Instr) (f : Frame) :
    encode c p = some f ↔ p.valid c = true ∧ f = layout p := by
  rw [← encReason_eq_none_iff, encode]
  cases encReason c p <;> simp [eq_comm]

theorem layout_length_rrq (p : List Byte) : (layout (.rrq p)).length = p.length + 1 := rfl
theorem layout_length_data (b : Byte) (p : List Byte) : (layout (.data b p)).length = p.length + 2 := rfl
theorem layout_length_ack (b : Byte) : (layout (.ack b)).length = 2 := rfl
theorem layout_length_error (p : List Byte) : (layout (.error p)).length = p.length + 1 := rfl

/-- The frame of a valid packet fits FRAME_MAX, so ENCODE's `MemWrite` is inside its bound (R31, R47). -/
theorem layout_length_le (c : Config) (p : Instr) (h : p.valid c = true) : (layout p).length ≤ c.frameMax := by
  have := c.dataFrameMax_le
  cases p with
  | rrq p => simp only [Instr.valid, decide_eq_true_eq] at h; rw [layout_length_rrq]; omega
  | data b p => have h : p.length ≤ 512 := of_decide_eq_true h; rw [layout_length_data]; omega
  | ack b => rw [layout_length_ack]; omega
  | error p => simp only [Instr.valid, decide_eq_true_eq] at h; rw [layout_length_error]; omega

end Sys2Proof
end

