-- ==== Sys2Proof/Laws/State.lean ====
section
/-! SUPPORT. One lemma per field per update of the state, so that no proof unfolds a record update. -/

namespace Sys2Proof.Machine

@[simp] theorem State.setRes_cfg (s : State) (r : Res) : (s.setRes r).cfg = s.cfg := (rfl)
@[simp] theorem State.setRes_rxbuf (s : State) (r : Res) : (s.setRes r).rxbuf = s.rxbuf := (rfl)
@[simp] theorem State.setRes_rxlen (s : State) (r : Res) : (s.setRes r).rxlen = s.rxlen := (rfl)
@[simp] theorem State.setRes_res (s : State) (r : Res) : (s.setRes r).res = r := (rfl)
@[simp] theorem State.setRes_txbuf (s : State) (r : Res) : (s.setRes r).txbuf = s.txbuf := (rfl)
@[simp] theorem State.setRes_txlen (s : State) (r : Res) : (s.setRes r).txlen = s.txlen := (rfl)
@[simp] theorem State.setRes_blk (s : State) (r : Res) : (s.setRes r).blk = s.blk := (rfl)
@[simp] theorem State.setRes_flt (s : State) (r : Res) : (s.setRes r).flt = s.flt := (rfl)
@[simp] theorem State.setRes_ops (s : State) (r : Res) : (s.setRes r).ops = s.ops := (rfl)
@[simp] theorem State.setRes_replies (s : State) (r : Res) : (s.setRes r).replies = s.replies := (rfl)

@[simp] theorem State.setBlk_cfg (s : State) (b : Byte) : (s.setBlk b).cfg = s.cfg := (rfl)
@[simp] theorem State.setBlk_rxbuf (s : State) (b : Byte) : (s.setBlk b).rxbuf = s.rxbuf := (rfl)
@[simp] theorem State.setBlk_rxlen (s : State) (b : Byte) : (s.setBlk b).rxlen = s.rxlen := (rfl)
@[simp] theorem State.setBlk_res (s : State) (b : Byte) : (s.setBlk b).res = s.res := (rfl)
@[simp] theorem State.setBlk_txbuf (s : State) (b : Byte) : (s.setBlk b).txbuf = s.txbuf := (rfl)
@[simp] theorem State.setBlk_txlen (s : State) (b : Byte) : (s.setBlk b).txlen = s.txlen := (rfl)
@[simp] theorem State.setBlk_blk (s : State) (b : Byte) : (s.setBlk b).blk = b := (rfl)
@[simp] theorem State.setBlk_flt (s : State) (b : Byte) : (s.setBlk b).flt = s.flt := (rfl)
@[simp] theorem State.setBlk_ops (s : State) (b : Byte) : (s.setBlk b).ops = s.ops := (rfl)
@[simp] theorem State.setBlk_replies (s : State) (b : Byte) : (s.setBlk b).replies = s.replies := (rfl)

@[simp] theorem State.answer_cfg (s : State) (r : Reply) : (s.answer r).cfg = s.cfg := (rfl)
@[simp] theorem State.answer_rxbuf (s : State) (r : Reply) : (s.answer r).rxbuf = s.rxbuf := (rfl)
@[simp] theorem State.answer_rxlen (s : State) (r : Reply) : (s.answer r).rxlen = s.rxlen := (rfl)
@[simp] theorem State.answer_res (s : State) (r : Reply) : (s.answer r).res = s.res := (rfl)
@[simp] theorem State.answer_txbuf (s : State) (r : Reply) : (s.answer r).txbuf = s.txbuf := (rfl)
@[simp] theorem State.answer_txlen (s : State) (r : Reply) : (s.answer r).txlen = s.txlen := (rfl)
@[simp] theorem State.answer_blk (s : State) (r : Reply) : (s.answer r).blk = s.blk := (rfl)
@[simp] theorem State.answer_flt (s : State) (r : Reply) : (s.answer r).flt = s.flt := (rfl)
@[simp] theorem State.answer_ops (s : State) (r : Reply) : (s.answer r).ops = s.ops := (rfl)
@[simp] theorem State.answer_replies (s : State) (r : Reply) : (s.answer r).replies = s.replies ++ [r] := (rfl)

@[simp] theorem State.raise_cfg (s : State) (f : Fault) : (s.raise f).cfg = s.cfg := (rfl)
@[simp] theorem State.raise_rxbuf (s : State) (f : Fault) : (s.raise f).rxbuf = s.rxbuf := (rfl)
@[simp] theorem State.raise_rxlen (s : State) (f : Fault) : (s.raise f).rxlen = s.rxlen := (rfl)
@[simp] theorem State.raise_res (s : State) (f : Fault) : (s.raise f).res = s.res := (rfl)
@[simp] theorem State.raise_txbuf (s : State) (f : Fault) : (s.raise f).txbuf = s.txbuf := (rfl)
@[simp] theorem State.raise_txlen (s : State) (f : Fault) : (s.raise f).txlen = s.txlen := (rfl)
@[simp] theorem State.raise_blk (s : State) (f : Fault) : (s.raise f).blk = s.blk := (rfl)
@[simp] theorem State.raise_flt (s : State) (f : Fault) : (s.raise f).flt = s.flt.mark f := (rfl)
@[simp] theorem State.raise_ops (s : State) (f : Fault) : (s.raise f).ops = s.ops := (rfl)
@[simp] theorem State.raise_replies (s : State) (f : Fault) : (s.raise f).replies = s.replies ++ [.fault f] := (rfl)

@[simp] theorem State.clear_cfg (s : State) : (s.clear).cfg = s.cfg := (rfl)
@[simp] theorem State.clear_rxbuf (s : State) : (s.clear).rxbuf = [] := (rfl)
@[simp] theorem State.clear_rxlen (s : State) : (s.clear).rxlen = 0 := (rfl)
@[simp] theorem State.clear_res (s : State) : (s.clear).res = resInvalid .empty := (rfl)
@[simp] theorem State.clear_txbuf (s : State) : (s.clear).txbuf = [] := (rfl)
@[simp] theorem State.clear_txlen (s : State) : (s.clear).txlen = 0 := (rfl)
@[simp] theorem State.clear_blk (s : State) : (s.clear).blk = 1#8 := (rfl)
@[simp] theorem State.clear_flt (s : State) : (s.clear).flt = fltClear := (rfl)
@[simp] theorem State.clear_ops (s : State) : (s.clear).ops = s.ops := (rfl)
@[simp] theorem State.clear_replies (s : State) : (s.clear).replies = s.replies := (rfl)

@[simp] theorem State.loadRx_cfg (s : State) (f : Frame) : (s.loadFrame .rx f).cfg = s.cfg := (rfl)
@[simp] theorem State.loadRx_rxbuf (s : State) (f : Frame) : (s.loadFrame .rx f).rxbuf = Memory.writeBytes [] 0 f := (rfl)
@[simp] theorem State.loadRx_rxlen (s : State) (f : Frame) : (s.loadFrame .rx f).rxlen = f.length := (rfl)
@[simp] theorem State.loadRx_res (s : State) (f : Frame) : (s.loadFrame .rx f).res = s.res := (rfl)
@[simp] theorem State.loadRx_txbuf (s : State) (f : Frame) : (s.loadFrame .rx f).txbuf = s.txbuf := (rfl)
@[simp] theorem State.loadRx_txlen (s : State) (f : Frame) : (s.loadFrame .rx f).txlen = s.txlen := (rfl)
@[simp] theorem State.loadRx_blk (s : State) (f : Frame) : (s.loadFrame .rx f).blk = s.blk := (rfl)
@[simp] theorem State.loadRx_flt (s : State) (f : Frame) : (s.loadFrame .rx f).flt = s.flt := (rfl)
@[simp] theorem State.loadRx_ops (s : State) (f : Frame) : (s.loadFrame .rx f).ops = s.ops := (rfl)
@[simp] theorem State.loadRx_replies (s : State) (f : Frame) : (s.loadFrame .rx f).replies = s.replies := (rfl)

@[simp] theorem State.loadTx_cfg (s : State) (f : Frame) : (s.loadFrame .tx f).cfg = s.cfg := (rfl)
@[simp] theorem State.loadTx_rxbuf (s : State) (f : Frame) : (s.loadFrame .tx f).rxbuf = s.rxbuf := (rfl)
@[simp] theorem State.loadTx_rxlen (s : State) (f : Frame) : (s.loadFrame .tx f).rxlen = s.rxlen := (rfl)
@[simp] theorem State.loadTx_res (s : State) (f : Frame) : (s.loadFrame .tx f).res = s.res := (rfl)
@[simp] theorem State.loadTx_txbuf (s : State) (f : Frame) : (s.loadFrame .tx f).txbuf = Memory.writeBytes [] 0 f := (rfl)
@[simp] theorem State.loadTx_txlen (s : State) (f : Frame) : (s.loadFrame .tx f).txlen = f.length := (rfl)
@[simp] theorem State.loadTx_blk (s : State) (f : Frame) : (s.loadFrame .tx f).blk = s.blk := (rfl)
@[simp] theorem State.loadTx_flt (s : State) (f : Frame) : (s.loadFrame .tx f).flt = s.flt := (rfl)
@[simp] theorem State.loadTx_ops (s : State) (f : Frame) : (s.loadFrame .tx f).ops = s.ops := (rfl)
@[simp] theorem State.loadTx_replies (s : State) (f : Frame) : (s.loadFrame .tx f).replies = s.replies := (rfl)

@[simp] theorem State.buffer_rx (s : State) : s.buffer .rx = s.rxbuf := (rfl)
@[simp] theorem State.buffer_tx (s : State) : s.buffer .tx = s.txbuf := (rfl)
@[simp] theorem State.extent_rx (s : State) : s.extent .rx = s.rxlen := (rfl)
@[simp] theorem State.extent_tx (s : State) : s.extent .tx = s.txlen := (rfl)

@[simp] theorem Flt.mark_seqDomain (f : Flt) (b : Byte) :
    f.mark (.seqDomain b) = { f with seqDom := true } := (rfl)
@[simp] theorem Flt.mark_encRefused (f : Flt) (r : EncReason) :
    f.mark (.encRefused r) = { f with encRef := true } := (rfl)

end Sys2Proof.Machine
end

