-- ==== Sys2Proof/Laws/Memory.lean ====
section
/-! SUPPORT. The laws of the frame buffers: a read after a write, the canonical form kept by every write, and what a
buffer loaded with a whole frame reads as. -/

namespace Sys2Proof.Machine

@[simp] theorem Memory.read_nil (a : Nat) : Memory.read [] a = none := rfl

/-- Read after write: the byte written at its offset, what stood there everywhere else. -/
theorem Memory.read_write (m : Memory) (a b : Nat) (v : Byte) :
    Memory.read (Memory.write m a v) b = if a = b then some v else Memory.read m b := by
  induction m with
  | nil => simp [Memory.write, Memory.read]
  | cons x m ih =>
    obtain ⟨k, w⟩ := x
    rw [Memory.write]
    split
    · simp [Memory.read]
    · split
      · rename_i hak
        by_cases h : a = b <;> simp [Memory.read, h, ← hak]
      · by_cases h : k = b
        · subst h; simp [Memory.read, *]
        · simp [Memory.read, ih, h]

/-- The canonical form, cell by cell: the next offset is above this one, and the rest is canonical. -/
theorem Memory.wf_cons_iff (k : Nat) (w : Byte) (m : Memory) :
    Memory.wf ((k, w) :: m) = true ↔ (∀ x ∈ m.head?, k < x.1) ∧ Memory.wf m = true := by
  cases m with
  | nil => simp [Memory.wf]
  | cons y m => simp [Memory.wf]

/-- A write above an offset leaves the first listed offset above it. -/
theorem Memory.write_head (m : Memory) (a : Nat) (v : Byte) (k : Nat) (hk : k < a)
    (h : ∀ x ∈ m.head?, k < x.1) : ∀ x ∈ (Memory.write m a v).head?, k < x.1 := by
  cases m with
  | nil => simpa [Memory.write] using hk
  | cons y m =>
    obtain ⟨j, w⟩ := y
    rw [Memory.write]
    split
    · simpa using hk
    · split
      · simpa using hk
      · simpa using h

/-- Every write of a byte keeps the canonical form. -/
theorem Memory.wf_write (m : Memory) (a : Nat) (v : Byte) (h : Memory.wf m = true) :
    Memory.wf (Memory.write m a v) = true := by
  induction m with
  | nil => rfl
  | cons x m ih =>
    obtain ⟨k, w⟩ := x
    obtain ⟨hhead, htail⟩ := (Memory.wf_cons_iff k w m).1 h
    rw [Memory.write]
    split
    · simpa [Memory.wf] using ⟨‹_›, h⟩
    · split
      · subst_vars
        exact (Memory.wf_cons_iff _ v m).2 ⟨hhead, htail⟩
      · exact (Memory.wf_cons_iff k w _).2
          ⟨Memory.write_head m a v k (by omega) hhead, ih htail⟩

/-- Every write of a sequence of bytes keeps the canonical form. -/
theorem Memory.wf_writeBytes (m : Memory) (i : Nat) (bs : List Byte) (h : Memory.wf m = true) :
    Memory.wf (Memory.writeBytes m i bs) = true := by
  induction bs generalizing i with
  | nil => exact h
  | cons b bs ih => exact Memory.wf_write _ _ _ (ih (i + 1))

/-- A byte after a write of a sequence: the sequence's inside it, what stood there outside it. -/
theorem Memory.read_writeBytes (m : Memory) (i a : Nat) (bs : List Byte) :
    Memory.read (Memory.writeBytes m i bs) a =
      if i ≤ a ∧ a < i + bs.length then bs[a - i]? else Memory.read m a := by
  induction bs generalizing i with
  | nil => rw [if_neg (by simp only [List.length_nil]; omega)]; rfl
  | cons b bs ih =>
    rw [Memory.writeBytes, Memory.read_write, ih]
    by_cases hi : i = a
    · subst hi; simp
    · rw [if_neg hi]
      by_cases hin : i + 1 ≤ a ∧ a < i + 1 + bs.length
      · rw [if_pos hin, if_pos (by simp only [List.length_cons]; omega),
          show a - i = (a - (i + 1)) + 1 by omega, List.getElem?_cons_succ]
      · rw [if_neg hin, if_neg (by simp only [List.length_cons]; omega)]

/-- A byte of a buffer loaded with a frame is the frame's byte; beyond the frame there is none (R12, R15). -/
@[simp] theorem Memory.read_loaded (f : Frame) (a : Nat) :
    Memory.read (Memory.writeBytes [] 0 f) a = f[a]? := by
  rw [Memory.read_writeBytes [] 0 a f]
  by_cases h : a < f.length
  · simp [h]
  · simp [h]

/-- A buffer loaded with a frame is in canonical form. -/
@[simp] theorem Memory.wf_loaded (f : Frame) : Memory.wf (Memory.writeBytes [] 0 f) = true :=
  Memory.wf_writeBytes [] 0 f rfl

/-- Reading bytes a loaded buffer holds gives the slice of the frame. -/
theorem Memory.readBytes_loaded (f : Frame) (i n : Nat) (h : i + n ≤ f.length) :
    Memory.readBytes (Memory.writeBytes [] 0 f) i n = some ((f.drop i).take n) := by
  induction n generalizing i with
  | zero => simp [Memory.readBytes]
  | succ n ih =>
    have hi : i < f.length := by omega
    rw [Memory.readBytes, ih (i + 1) (by omega), Memory.read_loaded,
      List.getElem?_eq_getElem hi, List.drop_eq_getElem_cons hi, List.take_succ_cons]

/-- `MemRead` in a receive buffer loaded with a frame (R31). -/
theorem State.memRead_loadRx (s : State) (f : Frame) (i n : Nat) :
    (s.loadFrame .rx f).memRead .rx i n =
      if i + n ≤ f.length then some ((f.drop i).take n) else none := by
  simp only [State.memRead, State.extent_rx, State.loadRx_rxlen, State.buffer_rx, State.loadRx_rxbuf]
  by_cases h : i + n ≤ f.length
  · rw [if_pos h, if_pos h, Memory.readBytes_loaded f i n h]
  · rw [if_neg h, if_neg h]

/-- `MemRead` in a transmit buffer loaded with a frame (R31). -/
theorem State.memRead_loadTx (s : State) (f : Frame) (i n : Nat) :
    (s.loadFrame .tx f).memRead .tx i n =
      if i + n ≤ f.length then some ((f.drop i).take n) else none := by
  simp only [State.memRead, State.extent_tx, State.loadTx_txlen, State.buffer_tx, State.loadTx_txbuf]
  by_cases h : i + n ≤ f.length
  · rw [if_pos h, if_pos h, Memory.readBytes_loaded f i n h]
  · rw [if_neg h, if_neg h]

/-- What `MemRead` gives depends on the buffer and the length of its space alone. -/
theorem State.memRead_congr {s t : State} {sp : Space} (hb : t.buffer sp = s.buffer sp)
    (he : t.extent sp = s.extent sp) (i n : Nat) : t.memRead sp i n = s.memRead sp i n := by
  simp [State.memRead, hb, he]

/-- Every operation on a space's buffer keeps the canonical form. -/
theorem State.wf_memWrite (s : State) (sp : Space) (i : Nat) (v : List Byte) (h : Memory.wf (s.buffer sp) = true) :
    Memory.wf ((s.memWrite sp i v).buffer sp) = true := by
  cases sp <;> exact Memory.wf_writeBytes _ i v h

theorem State.wf_discard (s : State) (sp : Space) : Memory.wf ((s.discard sp).buffer sp) = true := by
  cases sp <;> rfl

theorem State.wf_loadFrame (s : State) (sp : Space) (f : Frame) : Memory.wf ((s.loadFrame sp f).buffer sp) = true := by
  cases sp <;> exact Memory.wf_loaded f

/-- The buffers after reset are in canonical form. -/
theorem State.reset_wf : Memory.wf State.reset.rxbuf = true ∧ Memory.wf State.reset.txbuf = true := by decide

end Sys2Proof.Machine
end

