-- ==== Sys2Proof/Laws/Step.lean ====
section
/-! SUPPORT. One law per operation that says all it can do, for proofs to cite instead of unfolding the meanings. -/

namespace Sys2Proof.Machine

/-- How DECODE ends, from what `decode` returned (R110). -/
def replyOf : Parsed → Reply
  | .packet _ => .done
  | .invalid c => .invalid c

/-- Every kind parser answers a next state: RES is written, the result returned, nothing else changes. -/
theorem exec_eq (p : Instr) (s : State) :
    exec p s = .next ((s.setRes (resOf (.packet p))).answer .done) := by
  cases p <;> rfl

/-- DECODE of a frame that fits: RX holds it and RES is what `decode` makes of it (R65). -/
theorem opDecode_eq (f : Frame) (s : State) (h : f.length ≤ s.cfg.frameMax) :
    opDecode f s =
      .next (((s.loadFrame .rx f).setRes (resOf (decodeFrame f))).answer (replyOf (decodeFrame f))) := by
  rw [opDecode, if_pos h]
  cases hd : decodeFrame f with
  | packet p => exact exec_eq p _
  | invalid c => rfl

/-- DECODE of a frame that does not fit is refused at the boundary (D17). -/
theorem opDecode_refused (f : Frame) (s : State) (h : ¬ f.length ≤ s.cfg.frameMax) :
    opDecode f s = .refused .frameTooLong := by
  rw [opDecode, if_neg h]

/-- ENCODE of a valid packet: TX holds its frame (R80). -/
theorem opEncode_valid (p : Instr) (s : State) (h : p.valid s.cfg = true) :
    opEncode p s = .next ((s.loadFrame .tx (layout p)).answer .done) := by
  rw [opEncode, (encReason_eq_none_iff s.cfg p).2 h]

/-- ENCODE of any other packet: EncRefused is raised, with the reason of the packet's kind (R85). -/
theorem opEncode_refused (p : Instr) (s : State) (r : EncReason) (h : encReason s.cfg p = some r) :
    opEncode p s = .next (s.raise (.encRefused r)) := by
  rw [opEncode, h]

@[simp] theorem nextBlock_zero : nextBlock 0#8 = none := (rfl)
@[simp] theorem prevBlock_zero : prevBlock 0#8 = none := (rfl)

theorem nextBlock_of_ne (n : Byte) (h : n ≠ 0#8) : nextBlock n = some (if n = 255#8 then 1#8 else n + 1#8) := by
  rw [nextBlock, if_neg h, apply_ite some]

theorem prevBlock_of_ne (n : Byte) (h : n ≠ 0#8) : prevBlock n = some (if n = 1#8 then 255#8 else n - 1#8) := by
  rw [prevBlock, if_neg h, apply_ite some]

/-- 0 is in the image of neither function (R98). -/
theorem nextBlock_ne_zero (n m : Byte) (h : nextBlock n = some m) : m ≠ 0#8 := by
  have : ∀ n : Byte, nextBlock n ≠ some 0#8 := by decide
  rintro rfl
  exact this n h

theorem prevBlock_ne_zero (n m : Byte) (h : prevBlock n = some m) : m ≠ 0#8 := by
  have : ∀ n : Byte, prevBlock n ≠ some 0#8 := by decide
  rintro rfl
  exact this n h

/-- A port answers the byte, or raises SeqDomain (R99, R100). -/
theorem returnByte_eq (arg : Byte) (result : Option Byte) (s : State) :
    returnByte arg result s =
      .next (result.elim (s.raise (.seqDomain arg)) fun m => s.answer (.byte m)) := by
  cases result <;> rfl

/-- A counter operation writes BLK, or raises SeqDomain (R101 to R104). -/
theorem writeBlk_eq (arg : Byte) (result : Option Byte) (s : State) :
    writeBlk arg result s =
      .next (result.elim (s.raise (.seqDomain arg)) fun m => (s.setBlk m).answer .done) := by
  cases result <;> rfl

/-- RESET answers the cleared state (R130). -/
theorem opReset_eq (s : State) : opReset s = .next (s.clear.answer .done) := rfl

/-- All an operation can do: it answers a next state of one of seven forms, unless it is a DECODE of a frame that does
not fit. A case split on this replaces unfolding `issue`. -/
theorem issue_cases (op : Op) (s t : State) (h : issue op s = .next t) :
    (∃ f, op = .decode f ∧ f.length ≤ s.cfg.frameMax ∧
      t = ((s.loadFrame .rx f).setRes (resOf (decodeFrame f))).answer (replyOf (decodeFrame f))) ∨
    (∃ p, op = .encode p ∧ p.valid s.cfg = true ∧ t = (s.loadFrame .tx (layout p)).answer .done) ∨
    (∃ p r, op = .encode p ∧ encReason s.cfg p = some r ∧ t = s.raise (.encRefused r)) ∨
    (∃ n m, ((op = .seqNext n ∧ nextBlock n = some m) ∨ (op = .seqPrev n ∧ prevBlock n = some m)) ∧
      t = s.answer (.byte m)) ∨
    (∃ m, ((op = .blkLoad m ∧ m ≠ 0#8) ∨ (op = .blkInc ∧ nextBlock s.blk = some m) ∨
      (op = .blkDec ∧ prevBlock s.blk = some m)) ∧ t = (s.setBlk m).answer .done) ∨
    (((op = .seqNext 0#8 ∨ op = .seqPrev 0#8 ∨ op = .blkLoad 0#8) ∨ ((op = .blkInc ∨ op = .blkDec) ∧ s.blk = 0#8)) ∧
      t = s.raise (.seqDomain 0#8)) ∨
    (op = .reset ∧ t = s.clear.answer .done) := by
  cases op with
  | decode f =>
    by_cases hf : f.length ≤ s.cfg.frameMax
    · rw [issue, opDecode_eq f s hf] at h
      cases h
      exact .inl ⟨f, rfl, hf, rfl⟩
    · rw [issue, opDecode_refused f s hf] at h
      cases h
  | encode p =>
    cases hr : encReason s.cfg p with
    | none =>
      have hv := (encReason_eq_none_iff s.cfg p).1 hr
      rw [issue, opEncode_valid p s hv] at h
      cases h
      exact .inr (.inl ⟨p, rfl, hv, rfl⟩)
    | some r =>
      rw [issue, opEncode_refused p s r hr] at h
      cases h
      exact .inr (.inr (.inl ⟨p, r, rfl, hr, rfl⟩))
  | seqNext n =>
    rw [issue, opSeqNext, returnByte_eq] at h
    cases h
    by_cases hn : n = 0#8
    · subst hn; exact .inr (.inr (.inr (.inr (.inr (.inl ⟨.inl (.inl rfl), rfl⟩)))))
    · rw [nextBlock_of_ne n hn]
      exact .inr (.inr (.inr (.inl ⟨n, _, .inl ⟨rfl, nextBlock_of_ne n hn⟩, rfl⟩)))
  | seqPrev n =>
    rw [issue, opSeqPrev, returnByte_eq] at h
    cases h
    by_cases hn : n = 0#8
    · subst hn; exact .inr (.inr (.inr (.inr (.inr (.inl ⟨.inl (.inr (.inl rfl)), rfl⟩)))))
    · rw [prevBlock_of_ne n hn]
      exact .inr (.inr (.inr (.inl ⟨n, _, .inr ⟨rfl, prevBlock_of_ne n hn⟩, rfl⟩)))
  | blkLoad v =>
    rw [issue, opBlkLoad, writeBlk_eq] at h
    cases h
    by_cases hv : v = 0#8
    · subst hv; exact .inr (.inr (.inr (.inr (.inr (.inl ⟨.inl (.inr (.inr rfl)), rfl⟩)))))
    · rw [if_neg hv]
      exact .inr (.inr (.inr (.inr (.inl ⟨v, .inl ⟨rfl, hv⟩, rfl⟩))))
  | blkInc =>
    rw [issue, opBlkInc, writeBlk_eq] at h
    cases h
    by_cases hb : s.blk = 0#8
    · rw [hb]; exact .inr (.inr (.inr (.inr (.inr (.inl ⟨.inr ⟨.inl rfl, rfl⟩, rfl⟩)))))
    · rw [nextBlock_of_ne _ hb]
      exact .inr (.inr (.inr (.inr (.inl ⟨_, .inr (.inl ⟨rfl, rfl⟩), rfl⟩))))
  | blkDec =>
    rw [issue, opBlkDec, writeBlk_eq] at h
    cases h
    by_cases hb : s.blk = 0#8
    · rw [hb]; exact .inr (.inr (.inr (.inr (.inr (.inl ⟨.inr ⟨.inr rfl, rfl⟩, rfl⟩)))))
    · rw [prevBlock_of_ne _ hb]
      exact .inr (.inr (.inr (.inr (.inl ⟨_, .inr (.inr ⟨rfl, rfl⟩), rfl⟩))))
  | reset =>
    rw [issue, opReset_eq] at h
    cases h
    exact .inr (.inr (.inr (.inr (.inr (.inr ⟨rfl, rfl⟩)))))

/-- What a step can do: nothing when no operation is issued (R113), else the operation the host issues next. -/
theorem step_cases (s t : State) (h : step s = .next t) :
    (s.ops = [] ∧ t = s) ∨ ∃ op rest, s.ops = op :: rest ∧ issue op { s with ops := rest } = .next t := by
  rw [step, State.issueNext] at h
  cases hs : s.ops with
  | nil => rw [hs] at h; cases h; exact .inl ⟨rfl, rfl⟩
  | cons op rest => rw [hs] at h; exact .inr ⟨op, rest, rfl, h⟩

/-- A run of one step more, from a state whose step answers a next one. -/
theorem run_next (k : Nat) (s t : State) (h : step s = .next t) :
    Host.Core.run Sys2Proof.core (k + 1) s = Host.Core.run Sys2Proof.core k t := by
  have h' : Sys2Proof.core.step s = .next t := h
  simp only [Host.Core.run, h']

end Sys2Proof.Machine
end

