-- ==== Sys2Proof/Laws/Operands.lean ====
section
/-! SUPPORT. What the host reads after a DECODE or an ENCODE: the frame in the buffer, and the value RES stands for. -/

namespace Sys2Proof.Machine

/-- `MemRead` of RX after a DECODE's writes gives the slice of the frame. -/
theorem State.memRead_received (s : State) (f : Frame) (r : Res) (y : Reply) (i n : Nat) :
    (((s.loadFrame .rx f).setRes r).answer y).memRead .rx i n =
      if i + n ≤ f.length then some ((f.drop i).take n) else none :=
  (State.memRead_congr (s := s.loadFrame .rx f) rfl rfl i n).trans (State.memRead_loadRx s f i n)

/-- `MemRead` of TX after an ENCODE's writes gives the slice of the frame. -/
theorem State.memRead_built (s : State) (f : Frame) (y : Reply) (i n : Nat) :
    ((s.loadFrame .tx f).answer y).memRead .tx i n =
      if i + n ≤ f.length then some ((f.drop i).take n) else none :=
  (State.memRead_congr (s := s.loadFrame .tx f) rfl rfl i n).trans (State.memRead_loadTx s f i n)

@[simp] theorem State.rxFrame_received (s : State) (f : Frame) (r : Res) (y : Reply) :
    (((s.loadFrame .rx f).setRes r).answer y).rxFrame = some f := by
  simp [State.rxFrame, State.memRead_received]

@[simp] theorem State.txFrame_built (s : State) (f : Frame) (y : Reply) :
    ((s.loadFrame .tx f).answer y).txFrame = some f := by
  simp [State.txFrame, State.memRead_built]

/-- RES, written from what `decode` makes of a frame, stands for exactly that beside the frame in RX (R13). -/
theorem State.resValue_received (s : State) (f : Frame) (y : Reply) :
    (((s.loadFrame .rx f).setRes (resOf (decodeFrame f))).answer y).resValue = some (decodeFrame f) := by
  induction f using frame_cases with
  | nil => rfl
  | rrq p =>
    simp [State.resValue, State.payload, State.memRead_received, resOf, resRrq, resPacket, opRRQ, Config.hdrP,
      Nat.add_comm]
  | dataShort => rfl
  | data b p =>
    simp [State.resValue, State.payload, State.memRead_received, resOf, resData, resPacket, opRRQ, opDATA, Config.hdrB]
    omega
  | ackShort => rfl
  | ack b p => simp [State.resValue, resOf, resAck, resPacket, opRRQ, opDATA, opACK]
  | error p =>
    simp [State.resValue, State.payload, State.memRead_received, resOf, resError, resPacket, opRRQ, opDATA, opACK,
      opERROR, Config.hdrP, Nat.add_comm]
  | other op p h1 h3 h4 h5 => simp [decodeFrame_other op p h1 h3 h4 h5, State.resValue, resOf, resInvalid]

end Sys2Proof.Machine
end

