-- ==== Sys2Proof/Laws/PerInstr.lean ====
section
/-! SUPPORT. What holds of every packet kind as syntax, one lemma per constructor: the form of the frame `encode`
builds (`30_encoding.md` R45, R47, R52). -/

/-- A valid packet's frame begins with the packet's opcode, one of the four legal ones, and fits the frame buffer. -/
def Sys2Proof.Laws.FrameForm.Statement (i : Sys2Proof.Instr) : Prop :=
  ∀ c : Sys2Proof.Config, i.valid c = true →
    ∃ f, Sys2Proof.encode c i = some f ∧ f.head? = some i.opcode ∧ f.length ≤ c.frameMax ∧
      (i.opcode = 1 ∨ i.opcode = 3 ∨ i.opcode = 4 ∨ i.opcode = 5)

open Sys2Proof in
theorem Sys2Proof.Laws.FrameForm.rrq (filename : List Sys2Proof.Byte) :
    Sys2Proof.Laws.FrameForm.Statement (.rrq filename) := fun c h =>
  ⟨layout (.rrq filename), (encode_eq_some_iff c _ _).2 ⟨h, rfl⟩, rfl, layout_length_le c _ h, .inl rfl⟩

open Sys2Proof in
theorem Sys2Proof.Laws.FrameForm.data (block : Sys2Proof.Byte) (payload : List Sys2Proof.Byte) :
    Sys2Proof.Laws.FrameForm.Statement (.data block payload) := fun c h =>
  ⟨layout (.data block payload), (encode_eq_some_iff c _ _).2 ⟨h, rfl⟩, rfl, layout_length_le c _ h, .inr (.inl rfl)⟩

open Sys2Proof in
theorem Sys2Proof.Laws.FrameForm.ack (block : Sys2Proof.Byte) :
    Sys2Proof.Laws.FrameForm.Statement (.ack block) := fun c h =>
  ⟨layout (.ack block), (encode_eq_some_iff c _ _).2 ⟨h, rfl⟩, rfl, layout_length_le c _ h, .inr (.inr (.inl rfl))⟩

open Sys2Proof in
theorem Sys2Proof.Laws.FrameForm.error (message : List Sys2Proof.Byte) :
    Sys2Proof.Laws.FrameForm.Statement (.error message) := fun c h =>
  ⟨layout (.error message), (encode_eq_some_iff c _ _).2 ⟨h, rfl⟩, rfl, layout_length_le c _ h, .inr (.inr (.inr rfl))⟩
end

