-- ==== Sys2Proof/Tests/Slice0.lean ====
section
/-! SUPPORT. Tests of the model on the spec's own vectors (`95_test_vectors.md`), the well-formedness smoke tests, and,
for each statement with hypotheses, a witness that meets them. Expected values are the spec's. -/

namespace Sys2Proof.Tests

open Sys2Proof Sys2Proof.Machine

/-- The next state of an outcome, where there is one. -/
def nextOf : Host.Outcome State Fault Refusal → Option State
  | .next s => some s
  | .fault _ => none
  | .refused _ => none

/-- A state with ACK 7 in TX, as the ENCODE vectors start from (95_test_vectors.md 2.2). -/
def sent : State := State.reset.loadFrame .tx [0x04#8, 0x07#8]

/-- The state ZV1 starts from (95_test_vectors.md 2.5). -/
def busy : State :=
  { State.reset with
    rxbuf := [(0, 0x03#8), (1, 0x01#8), (2, 0x68#8), (3, 0x69#8)]
    rxlen := 4
    res := { v := true, cause := .none, kind := 3#8, blk := 1#8, poff := 2, plen := 2 }
    txbuf := [(0, 0x04#8), (1, 0x01#8)]
    txlen := 2
    blk := 77#8
    flt := { seqDom := true, encRef := true } }

/-- A reset state whose counter holds `b`. -/
def withBlk (b : Byte) : State := { State.reset with blk := b }

/-! ## Well-formedness: an ill-formed term for each check of R20 -/

theorem test_frameMax_default : State.reset.cfg.frameMax = 1472 := by decide
theorem test_valid_data_512 : (Instr.data 255#8 (List.replicate 512 0x00#8)).valid Config.standard = true := by decide +kernel
theorem test_invalid_data_513 : (Instr.data 1#8 (List.replicate 513 0x00#8)).valid Config.standard = false := by decide +kernel
theorem test_valid_rrq_1471 : (Instr.rrq (List.replicate 1471 0x41#8)).valid Config.standard = true := by decide +kernel
theorem test_invalid_rrq_1472 : (Instr.rrq (List.replicate 1472 0x41#8)).valid Config.standard = false := by decide +kernel
theorem test_invalid_error_1472 : (Instr.error (List.replicate 1472 0x41#8)).valid Config.standard = false := by decide +kernel
theorem test_last_eot : (Instr.eot 1#8).last = true := by rfl
theorem test_last_full : (Instr.data 1#8 (List.replicate 512 0x00#8)).last = false := by decide +kernel

/-! ## Decoding: each kind's bytes from the encoding tables of `30_encoding.md` R46, R52, bit 7 of a byte first -/

/-- RRQ, opcode 0000 0001 (DV4). -/
theorem test_decode_rrq : decodeFrame [0b00000001#8, 0x66#8, 0x6F#8, 0x6F#8] = .packet (.rrq [0x66#8, 0x6F#8, 0x6F#8]) := by
  decide
/-- DATA, opcode 0000 0011, block bbbbbbbb = 1000 0000 (DV12). -/
theorem test_decode_data : decodeFrame [0b00000011#8, 0b10000000#8, 0xFF#8] = .packet (.data 128#8 [0xFF#8]) := by decide
/-- ACK, opcode 0000 0100, block bbbbbbbb = 1111 1111 (DV21). -/
theorem test_decode_ack : decodeFrame [0b00000100#8, 0b11111111#8] = .packet (.ack 255#8) := by decide
/-- ERROR, opcode 0000 0101 (DV24). -/
theorem test_decode_error : decodeFrame [0b00000101#8, 0x6E#8, 0x6F#8] = .packet (.error [0x6E#8, 0x6F#8]) := by decide
theorem test_decode_DV3_DV23 : decodeFrame [0x01#8] = .packet (.rrq []) ∧ decodeFrame [0x05#8] = .packet (.error []) := by
  decide
theorem test_decode_DV9_DV10 : decodeFrame [0x03#8, 0x01#8] = .packet (Instr.eot 1#8) ∧
    decodeFrame [0x03#8, 0x00#8] = .packet (.data 0#8 []) := by decide
theorem test_decode_DV22 : decodeFrame [0x04#8, 0x05#8, 0xAA#8, 0xBB#8] = .packet (.ack 5#8) := by decide
theorem test_decode_invalid : decodeFrame [] = .invalid .empty ∧ decodeFrame [0x02#8] = .invalid .badOpcode ∧
    decodeFrame [0x03#8] = .invalid .short ∧ decodeFrame [0x04#8] = .invalid .short ∧
    decodeFrame [0x83#8, 0x01#8] = .invalid .badOpcode := by decide
/-- Only the four opcodes decode, of all 256 (R52, R53), whether or not a block byte follows. -/
theorem test_decode_opcode_map : ∀ op : Byte,
    (decodeFrame [op, 0x00#8] = .invalid .badOpcode) ↔ ¬(op = 1#8 ∨ op = 3#8 ∨ op = 4#8 ∨ op = 5#8) := by decide
theorem test_cause_codes : Cause.none.code = 0#2 ∧ Cause.empty.code = 1#2 ∧ Cause.badOpcode.code = 2#2 ∧
    Cause.short.code = 3#2 := by decide

/-! ## Words of the opcode table -/

theorem test_table_rrq : decodeTableWord 8 0x01 = some (.rrq []) := by decide
theorem test_table_data : decodeTableWord 8 0x03 = some (.data 0#8 []) := by decide
theorem test_table_ack : decodeTableWord 8 0x04 = some (.ack 0#8) := by decide
theorem test_table_error : decodeTableWord 8 0x05 = some (.error []) := by decide
theorem test_table_ack_block : decodeTableWord 16 0xC804 = some (.ack 200#8) := by decide
theorem test_table_illegal : decodeTableWord 8 0x02 = none := by decide
/-- The word placed is run by the very next step, the first after reset. -/
theorem test_first_step : (nextOf (step (State.reset.withFetchWord 16 0xC804))).map (fun t => (t.res, t.ops)) =
    some ({ v := true, cause := .none, kind := 4#8, blk := 200#8, poff := 2, plen := 0 }, []) := by decide

/-! ## DECODE (2.1) -/

theorem test_DV1_after_frame : (nextOf (opDecode [] busy)).map (fun t => (t.rxlen, t.rxbuf, t.res, t.resValue)) =
    some (0, [], { v := false, cause := .empty, kind := 0#8, blk := 0#8, poff := 0, plen := 0 },
      some (.invalid .empty)) := by decide
theorem test_DV11 : (nextOf (opDecode [0x03#8, 0x01#8, 0x68#8, 0x69#8] State.reset)).map (fun t => (t.rxlen, t.res, t.payload)) =
    some (4, { v := true, cause := .none, kind := 3#8, blk := 1#8, poff := 2, plen := 2 },
      some [0x68#8, 0x69#8]) := by decide
/-- DV14: 513 data bytes are accepted, and the packet is not valid. -/
theorem test_DV14 : (nextOf (opDecode (0x03#8 :: 0x07#8 :: List.replicate 513 0x00#8) State.reset)).map (·.res) =
    some { v := true, cause := .none, kind := 3#8, blk := 7#8, poff := 2, plen := 513 } := by decide +kernel
theorem test_ZV5 : (nextOf (opDecode [0x09#8] State.reset)).map (fun t => (t.res, t.flt)) =
    some ({ v := false, cause := .badOpcode, kind := 0#8, blk := 0#8, poff := 0, plen := 0 },
      { seqDom := false, encRef := false }) := by decide
theorem test_decode_overlong : nextOf (opDecode (List.replicate 1473 0x01#8) State.reset) = none := by decide +kernel

/-! ## ENCODE (2.2) -/

theorem test_EV1 : (nextOf (opEncode (.rrq [0x66#8, 0x6F#8, 0x6F#8]) sent)).map (fun t => (t.txlen, t.txFrame)) =
    some (4, some [0x01#8, 0x66#8, 0x6F#8, 0x6F#8]) := by decide
theorem test_EV4 : (nextOf (opEncode (.error []) sent)).map (fun t => (t.txlen, t.txFrame)) = some (1, some [0x05#8]) := by
  decide
theorem test_EV6 : (nextOf (opEncode (.ack 128#8) sent)).map (·.txFrame) = some (some [0x04#8, 0x80#8]) := by decide
theorem test_EV10 : (nextOf (opEncode (Instr.eot 200#8) sent)).map (·.txFrame) = some (some [0x03#8, 0xC8#8]) := by decide
theorem test_EV12 : (nextOf (opEncode (.data 1#8 (List.replicate 513 0x00#8)) sent)).map
      (fun t => (t.txFrame, t.flt, t.replies)) =
    some (some [0x04#8, 0x07#8], { seqDom := false, encRef := true },
      [.fault (.encRefused .dataTooLong)]) := by decide +kernel
theorem test_EV13 : (nextOf (opEncode (.rrq (List.replicate 1471 0x41#8)) sent)).map (·.txlen) = some 1472 := by
  decide +kernel
theorem test_EV14 : (nextOf (opEncode (.rrq (List.replicate 1472 0x41#8)) sent)).map (fun t => (t.txlen, t.replies)) =
    some (2, [.fault (.encRefused .frameTooLong)]) := by decide +kernel

/-! ## The sequencer and BLK (2.3, 2.4) -/

theorem test_QV2_QV4_QV5 : nextBlock 127#8 = some 128#8 ∧ nextBlock 254#8 = some 255#8 ∧ nextBlock 255#8 = some 1#8 := by
  decide
theorem test_QV7_QV8_QV9 : prevBlock 1#8 = some 255#8 ∧ prevBlock 2#8 = some 1#8 ∧ prevBlock 128#8 = some 127#8 := by decide
/-- QV16: the closed forms, over every block number. -/
theorem test_QV16 : ∀ n : Byte, n ≠ 0#8 →
    nextBlock n = some (BitVec.ofNat 8 (n.toNat % 255 + 1)) ∧
    prevBlock n = some (BitVec.ofNat 8 ((n.toNat + 253) % 255 + 1)) := by decide
theorem test_QV5_port : (nextOf (opSeqNext 255#8 State.reset)).map (·.replies) = some [.byte 1#8] := by decide
theorem test_QV6 : (nextOf (opSeqNext 0#8 State.reset)).map (fun t => (t.flt.seqDom, t.replies)) =
    some (true, [.fault (.seqDomain 0#8)]) := by decide
theorem test_QV7_port : (nextOf (opSeqPrev 1#8 State.reset)).map (·.replies) = some [.byte 255#8] := by decide
theorem test_BV3 : (nextOf (opBlkInc (withBlk 255#8))).map (·.blk) = some 1#8 := by decide
theorem test_BV4 : (nextOf (opBlkDec (withBlk 1#8))).map (·.blk) = some 255#8 := by decide
theorem test_BV6 : (nextOf (opBlkLoad 200#8 (withBlk 7#8))).map (·.blk) = some 200#8 := by decide
theorem test_BV7 : (nextOf (opBlkLoad 0#8 (withBlk 7#8))).map (fun t => (t.blk, t.flt.seqDom)) = some (7#8, true) := by decide
theorem test_ZV3 : (nextOf (opBlkInc { withBlk 9#8 with flt := { seqDom := true, encRef := false } })).map
      (fun t => (t.blk, t.flt.seqDom)) = some (10#8, true) := by decide

/-! ## RESET (2.5) and one step -/

theorem test_ZV1 : nextOf (opReset busy) = some { State.reset with replies := [.done] } := by decide
/-- ZV2: RESET is idempotent on the registers. -/
theorem test_ZV2 : State.reset.clear = State.reset := by decide
theorem test_reset_faultFree : State.reset.faultFree = true ∧ busy.faultFree = false := by decide
theorem test_idle : nextOf (step State.reset) = some State.reset := by decide
theorem test_memory_wf : Memory.wf busy.rxbuf = true ∧ Memory.wf [(1, 0x00#8), (1, 0x01#8)] = false := by decide

/-! ## Witnesses: for each statement with hypotheses, values that meet them all -/

theorem witness_InvalidInExactlyThreeCases :
    (([] : Frame).length ≤ State.reset.cfg.frameMax ∧ decodeFrame [] = .invalid .empty) ∧
    ([0x06#8].length ≤ State.reset.cfg.frameMax ∧ decodeFrame [0x06#8] = .invalid .badOpcode) ∧
    ([0x03#8].length ≤ State.reset.cfg.frameMax ∧ decodeFrame [0x03#8] = .invalid .short) := by decide
theorem witness_RrqFrameGivesFilename : ([] : List Byte).length + 1 ≤ State.reset.cfg.frameMax ∧
    (List.replicate 1471 0x41#8).length + 1 ≤ State.reset.cfg.frameMax := by decide +kernel
theorem witness_DataFrameGivesBlockAndData : ([] : List Byte).length + 2 ≤ State.reset.cfg.frameMax ∧
    ((List.replicate 1470 0x41#8).length + 2 ≤ State.reset.cfg.frameMax ∧ 512 < (List.replicate 1470 0x41#8).length) ∧
    ((List.replicate 513 0x41#8).length + 2 ≤ State.reset.cfg.frameMax ∧ 512 < (List.replicate 513 0x41#8).length) := by
  decide +kernel
theorem witness_AckFrameGivesBlock : ([] : List Byte).length + 2 ≤ State.reset.cfg.frameMax ∧
    (List.replicate 1470 0x41#8).length + 2 ≤ State.reset.cfg.frameMax := by decide +kernel
theorem witness_ErrorFrameGivesMessage : ([] : List Byte).length + 1 ≤ State.reset.cfg.frameMax ∧
    (List.replicate 1471 0x41#8).length + 1 ≤ State.reset.cfg.frameMax := by decide +kernel
theorem witness_DecodeDependsOnFrameAlone : (List.replicate 1472 0x01#8).length ≤ State.reset.cfg.frameMax ∧
    (nextOf (opDecode [0x04#8, 0xC8#8] State.reset)).isSome = true ∧
    (nextOf (opDecode [0x04#8, 0xC8#8] busy)).isSome = true := by decide +kernel
theorem witness_OnlyOverlongFramesAreRefused : State.reset.cfg.frameMax < (List.replicate 1473 0x01#8).length := by
  decide +kernel
theorem witness_EncodeBuildsRrqAndError : (List.replicate 1471 0x41#8).length ≤ sent.cfg.frameMax - 1 ∧
    sent.cfg.frameMax - 1 < (List.replicate 1472 0x41#8).length := by decide +kernel
theorem witness_EncodeBuildsDataAndAck : (List.replicate 512 0x00#8).length ≤ 512 ∧
    512 < (List.replicate 513 0x00#8).length := by decide +kernel
theorem witness_EncodeRefusesInvalidPackets :
    (Instr.data 1#8 (List.replicate 513 0x00#8)).valid sent.cfg = false ∧
    (Instr.rrq (List.replicate 1472 0x41#8)).valid sent.cfg = false ∧
    (Instr.error (List.replicate 1472 0x41#8)).valid sent.cfg = false ∧
    (busy.flt.encRef = true ∧ (nextOf (issue .blkInc busy)).isSome = true ∧ Op.blkInc ≠ .reset) := by decide +kernel
theorem witness_EncodeReadsNoRegister : sent.cfg = busy.cfg ∧ (Instr.ack 1#8).valid sent.cfg = true ∧
    (Instr.data 1#8 (List.replicate 513 0x00#8)).valid sent.cfg = false ∧
    encode sent.cfg (.ack 1#8) = some [0x04#8, 0x01#8] := by decide +kernel
/-- Each clause at its lowest offset: a shorter frame received after a longer one, one built after another, and RESET of a
state that holds both. -/
theorem witness_UnspecifiedBytesHaveNoValue :
    (nextOf (opDecode [0x04#8, 0x01#8] busy)).map (·.rxlen) = some 2 ∧ (Memory.read busy.rxbuf 2).isSome = true ∧
    (Instr.error []).valid sent.cfg = true ∧ (nextOf (opEncode (.error []) sent)).map (·.txlen) = some 1 ∧
    (Memory.read sent.txbuf 1).isSome = true ∧ (nextOf (opReset busy)).isSome = true := by decide
theorem witness_BuiltFrameLengths : encode Config.standard (.rrq []) = some [0x01#8] ∧
    encode Config.standard (.data 1#8 []) = some [0x03#8, 0x01#8] ∧
    encode Config.standard (.ack 1#8) = some [0x04#8, 0x01#8] ∧
    encode Config.standard (.error [0x6E#8]) = some [0x05#8, 0x6E#8] := by decide
theorem witness_EncodedPacketsDecodeBack : (Instr.data 255#8 []).valid sent.cfg = true ∧
    (nextOf (opEncode (.data 255#8 []) sent)).isSome = true ∧
    (decodeFrame [0x04#8, 0x09#8] = .packet (.ack 9#8) ∧ (Instr.ack 9#8).valid sent.cfg = true ∧
      [0x04#8, 0x09#8].length = 2) ∧
    512 < (List.replicate 513 0x00#8).length := by decide +kernel
theorem witness_BlockByteSurvivesRoundTrip : (Instr.ack 200#8 = .ack 200#8) ∧
    (Instr.data 0#8 (List.replicate 512 0x00#8) = .data 0#8 (List.replicate 512 0x00#8) ∧
      (List.replicate 512 0x00#8).length ≤ 512) := by decide +kernel
/-- For SeqNextReturnsSuccessor, SeqPrevReturnsPredecessor and BlkLoadWritesAllButZero: each clause, at the ends of its
range. -/
theorem witness_SeqPorts_and_BlkLoad : (0#8 : Byte) = 0#8 ∧ (255#8 : Byte) ≠ 0#8 ∧ (254#8 : Byte) ≠ 0#8 ∧ (254#8 : Byte) ≠ 255#8 ∧
    (1#8 : Byte) ≠ 0#8 ∧ (2#8 : Byte) ≠ 1#8 := by decide
/-- For BlkIncWritesSuccessor and BlkDecWritesPredecessor, at both wrap-arounds. -/
theorem witness_BlkIncAndDec : (withBlk 255#8).BlkLegal ∧ (withBlk 1#8).BlkLegal := by
  exact ⟨(by decide : ¬ (255#8 : Byte) = 0#8), (by decide : ¬ (1#8 : Byte) = 0#8)⟩
theorem witness_OnlyZeroIsOutsideTheDomain : Op.blkLoad 0#8 = .seqNext 0#8 ∨ Op.blkLoad 0#8 = .seqPrev 0#8 ∨
    Op.blkLoad 0#8 = .blkLoad 0#8 := by decide
theorem witness_BlockNumbersCycleWithPeriod255 : (255#8 : Byte) ≠ 0#8 ∧ 255 ∣ 510 ∧ ¬ 255 ∣ 256 := by decide
/-- For FaultFlagsAreStickyAndUnread and FaultsWriteTheirFlagOnly: flags that were set before an operation that answers a
next state, and operations that report each fault. -/
theorem witness_FaultFlags_and_FaultsWriteTheirFlagOnly : busy.flt.seqDom = true ∧ busy.flt.encRef = true ∧
    (nextOf (issue .blkDec busy)).isSome = true ∧
    (nextOf (issue (.seqPrev 0#8) State.reset)).map (·.replies) = some (State.reset.replies ++ [.fault (.seqDomain 0#8)]) ∧
    (nextOf (issue (.encode (.rrq (List.replicate 1472 0x41#8))) State.reset)).map (·.replies) =
      some (State.reset.replies ++ [.fault (.encRefused .frameTooLong)]) := by decide +kernel
theorem witness_EveryOperationEndsInOneOfThreeWays : State.reset.blk ≠ 0#8 ∧
    (∀ f, Op.decode [0x02#8] = .decode f → f.length ≤ State.reset.cfg.frameMax) ∧
    (nextOf (issue (.decode [0x02#8]) State.reset)).map (·.replies) = some [.invalid .badOpcode] := by
  refine ⟨by decide, ?_, by decide⟩
  rintro f h
  cases h
  decide
/-- R130's second clause: a RESET clears a flag that was set. -/
theorem witness_ResetLeavesResetValues : busy.flt.seqDom = true ∧
    (nextOf (issue .reset busy)).map (fun t => t.flt.seqDom) = some false := by decide
/-- For EveryStepKeepsTheInvariant and EveryStepKeepsBuffersCanonical: the state after reset with an operation issued meets
every invariant, part by part, and takes a step. -/
theorem witness_EveryStepKeepsTheInvariant :
    let s : State := { State.reset with ops := [.decode [0x04#8, 0xC8#8]] }
    s.BuffersWf ∧ s.ExtentHeld .rx ∧ s.ExtentHeld .tx ∧ s.ResultLegal ∧ s.ResultMatches ∧ s.TransmitBuilt ∧ s.BlkLegal ∧
      (nextOf (step s)).isSome = true :=
  ⟨⟨rfl, rfl⟩, ⟨Nat.zero_le _, by simp [State.reset]⟩, ⟨Nat.zero_le _, by simp [State.reset]⟩,
    by simp [State.ResultLegal, State.reset], ⟨[], rfl, rfl⟩, .inl rfl, (by decide : ¬ (1#8 : Byte) = 0#8), by decide⟩
/-- For ResultIsDecodingOfReceiveBuffer, BlkIsNeverZero, OperationsWriteOnlyTheirRegisters (its clause under BlkLegal
included) and PayloadLivesUntilTheNextDecode: a state with a received frame and its decoding, and an operation other than DECODE, ENCODE and RESET that answers a next
state from it. -/
theorem witness_operations_from_busy : busy.rxFrame = some [0x03#8, 0x01#8, 0x68#8, 0x69#8] ∧
    busy.resValue = some (decodeFrame [0x03#8, 0x01#8, 0x68#8, 0x69#8]) ∧ Memory.wf busy.rxbuf = true ∧
    Memory.wf busy.txbuf = true ∧ busy.blk ≠ 0#8 ∧ (nextOf (issue .blkInc busy)).isSome = true ∧
    Op.blkInc ≠ .reset ∧ (Instr.rrq (List.replicate 1472 0x41#8)).valid busy.cfg = false := by decide +kernel
theorem witness_StepRunsTheDecodedPacket :
    ({ State.reset with ops := [.decode [0x04#8, 0x01#8], .blkInc] } : State).ops = .decode [0x04#8, 0x01#8] :: [.blkInc] ∧
    [0x04#8, 0x01#8].length ≤ State.reset.cfg.frameMax ∧ decodeFrame [0x04#8, 0x01#8] = .packet (.ack 1#8) := by decide
theorem witness_StepIssuesTheNextOperation : ({ State.reset with ops := [.blkInc] } : State).ops = .blkInc :: [] ∧
    State.reset.ops = [] := by decide
theorem witness_PlacedTableWordIsRun : decodeTableWord 8 0x03 = some (.data 0#8 []) ∧ 8 ≤ 4112 ∧
    decodeTableWord 16 0xC804 = some (.ack 200#8) := by decide
theorem witness_EveryRunCompletes : ∀ f, Op.decode f ∈ [Op.decode [0x04#8], .blkInc] → f.length ≤ State.reset.cfg.frameMax := by
  rintro f h
  simp only [List.mem_cons, Op.decode.injEq, List.not_mem_nil, or_false, reduceCtorEq] at h
  subst h
  decide

end Sys2Proof.Tests
end

