-- ==== Sys2Proof/Proofs/FaultFlags.lean ====
section
/-! PROOFS. The fault flags (`10_state.md` R17): what an operation can do to them, and that none of them is read. -/

namespace Sys2Proof.Machine

/-- An operation raises a fault, or it reports none and then only RESET touches the flags (R17, R112). -/
theorem issue_raises_or_reports_none (op : Op) (s t : State) (h : issue op s = .next t) :
    (∃ f, t = s.raise f) ∨
      ((∀ f, t.replies ≠ s.replies ++ [.fault f]) ∧ (op ≠ .reset → t.flt = s.flt)) := by
  rcases issue_cases op s t h with ⟨f, -, -, rfl⟩ | ⟨p, -, -, rfl⟩ | ⟨-, r, -, -, rfl⟩ | ⟨-, m, -, rfl⟩ |
    ⟨m, -, rfl⟩ | ⟨-, rfl⟩ | ⟨rfl, rfl⟩
  · exact .inr ⟨by cases decodeFrame f <;> simp [replyOf], fun _ => rfl⟩
  · exact .inr ⟨by simp, fun _ => rfl⟩
  · exact .inl ⟨_, rfl⟩
  · exact .inr ⟨by simp, fun _ => rfl⟩
  · exact .inr ⟨by simp, fun _ => rfl⟩
  · exact .inl ⟨_, rfl⟩
  · exact .inr ⟨by simp, fun hne => absurd rfl hne⟩

/-- A fault that is reported has marked its flag, and the other flag is as before (R112, R115). -/
theorem issue_flt_of_fault (op : Op) (s t : State) (f : Fault) (h : issue op s = .next t)
    (hf : t.replies = s.replies ++ [.fault f]) : t.flt = s.flt.mark f := by
  rcases issue_raises_or_reports_none op s t h with ⟨f', rfl⟩ | ⟨hnone, -⟩
  · obtain rfl : f' = f := by simpa using hf
    rfl
  · exact absurd hf (hnone f)

/-- Marking a flag clears neither. -/
theorem Flt.mark_keeps_set (g : Flt) (f : Fault) :
    (g.seqDom = true → (g.mark f).seqDom = true) ∧ (g.encRef = true → (g.mark f).encRef = true) := by
  cases f with
  | seqDomain n => exact ⟨fun _ => rfl, id⟩
  | encRefused r => exact ⟨id, fun _ => rfl⟩

/-- No operation but RESET clears a flag (R17). -/
theorem issue_keeps_set_flags (op : Op) (s t : State) (h : issue op s = .next t) (hop : op ≠ .reset) :
    (s.flt.seqDom = true → t.flt.seqDom = true) ∧ (s.flt.encRef = true → t.flt.encRef = true) := by
  rcases issue_raises_or_reports_none op s t h with ⟨f, rfl⟩ | ⟨-, hkeep⟩
  · exact s.flt.mark_keeps_set f
  · rw [hkeep hop]
    exact ⟨id, id⟩

/-- Two states are the same but for the fault flags. -/
def State.SameButFlags (u t : State) : Prop := { u with flt := t.flt } = t

/-- A sequencer port reads no flag: from other flags it answers the same but for the flags. -/
theorem returnByte_ignores_flags (arg : Byte) (result : Option Byte) (s t : State) (g : Flt)
    (h : returnByte arg result s = .next t) :
    ∃ u, returnByte arg result { s with flt := g } = .next u ∧ u.SameButFlags t := by
  cases result <;> cases h <;> exact ⟨_, rfl, rfl⟩

/-- A counter operation reads no flag. -/
theorem writeBlk_ignores_flags (arg : Byte) (result : Option Byte) (s t : State) (g : Flt)
    (h : writeBlk arg result s = .next t) :
    ∃ u, writeBlk arg result { s with flt := g } = .next u ∧ u.SameButFlags t := by
  cases result <;> cases h <;> exact ⟨_, rfl, rfl⟩

/-- DECODE reads no flag: what it writes is a function of its frame alone (R65). -/
theorem opDecode_ignores_flags (f : Frame) (s t : State) (g : Flt) (h : opDecode f s = .next t) :
    ∃ u, opDecode f { s with flt := g } = .next u ∧ u.SameButFlags t := by
  by_cases hf : f.length ≤ s.cfg.frameMax
  · rw [opDecode_eq f s hf] at h
    cases h
    exact ⟨_, opDecode_eq f { s with flt := g } hf, rfl⟩
  · rw [opDecode_refused f s hf] at h
    cases h

/-- ENCODE reads no flag: its test reads the packet and FRAME_MAX (R80, R85). -/
theorem opEncode_ignores_flags (p : Instr) (s t : State) (g : Flt) (h : opEncode p s = .next t) :
    ∃ u, opEncode p { s with flt := g } = .next u ∧ u.SameButFlags t := by
  cases hr : encReason s.cfg p with
  | none =>
    have hv := (encReason_eq_none_iff s.cfg p).1 hr
    rw [opEncode_valid p s hv] at h
    cases h
    exact ⟨_, opEncode_valid p { s with flt := g } hv, rfl⟩
  | some r =>
    rw [opEncode_refused p s r hr] at h
    cases h
    exact ⟨_, opEncode_refused p { s with flt := g } r hr, rfl⟩

/-- RESET reads no flag: it clears both whatever they were (R130). -/
theorem opReset_ignores_flags (s t : State) (g : Flt) (h : opReset s = .next t) :
    ∃ u, opReset { s with flt := g } = .next u ∧ u.SameButFlags t := by
  cases h
  exact ⟨_, opReset_eq { s with flt := g }, rfl⟩

/-- No operation reads a flag (R17). -/
theorem issue_ignores_flags (op : Op) (s t : State) (g : Flt) (h : issue op s = .next t) :
    ∃ u, issue op { s with flt := g } = .next u ∧ u.SameButFlags t := by
  cases op with
  | decode f => exact opDecode_ignores_flags f s t g h
  | encode p => exact opEncode_ignores_flags p s t g h
  | seqNext n => exact returnByte_ignores_flags n (nextBlock n) s t g h
  | seqPrev n => exact returnByte_ignores_flags n (prevBlock n) s t g h
  | blkLoad v => exact writeBlk_ignores_flags v (if v = 0#8 then none else some v) s t g h
  | blkInc => exact writeBlk_ignores_flags s.blk (nextBlock s.blk) s t g h
  | blkDec => exact writeBlk_ignores_flags s.blk (prevBlock s.blk) s t g h
  | reset => exact opReset_ignores_flags s t g h

end Sys2Proof.Machine

namespace Sys2Proof
open Machine

/-- Settles O25: what an operation does to the flags is read off `issue_cases`, and each operation's own law holds
unchanged from any other flags. -/
theorem faultFlagsAreStickyAndUnread : Obligations.FaultFlagsAreStickyAndUnread := by
  intro s t op h
  refine ⟨fun n hn => ?_, fun r hr => ?_, issue_keeps_set_flags op s t h, fun g => issue_ignores_flags op s t g h⟩
  · rw [issue_flt_of_fault op s t _ h hn, Flt.mark_seqDomain]
  · rw [issue_flt_of_fault op s t _ h hr, Flt.mark_encRefused]

end Sys2Proof
end

