-- ==== Sys2Proof/Proofs/FrameLengths.lean ====
section
/-! PROOFS. The lengths of the frames the encoder builds (`30_encoding.md` R47). -/

namespace Sys2Proof

/-- A built frame is as long as the packet's layout, and fits the frame buffer (R47, R81 to R84). -/
theorem encode_length (c : Config) (p : Instr) (f : Frame) (h : encode c p = some f) :
    f.length = (layout p).length ∧ f.length ≤ c.frameMax := by
  obtain ⟨hv, rfl⟩ := (encode_eq_some_iff c p f).1 h
  exact ⟨rfl, layout_length_le c p hv⟩

/-- The encoder builds a DATA frame only for at most DATA_MAX data bytes (R20, R85). -/
theorem payload_length_le_of_encode_data (c : Config) (block : Byte) (data : List Byte) (f : Frame)
    (h : encode c (.data block data) = some f) : data.length ≤ 512 :=
  of_decide_eq_true ((encode_eq_some_iff c _ f).1 h).1

/-- Every packet's layout begins with its opcode, so none is empty (R45, R46). -/
theorem layout_ne_nil (p : Instr) : layout p ≠ [] := by
  cases p <;> exact List.cons_ne_nil _ _

/-- No built frame is empty (R47). -/
theorem encode_ne_some_nil (c : Config) (p : Instr) : encode c p ≠ some [] := fun h =>
  layout_ne_nil p ((encode_eq_some_iff c p []).1 h).2.symm

/-- The zero-length datagram is no packet (R47, R72). -/
theorem decodeFrame_nil_ne_packet (p : Instr) : decodeFrame [] ≠ .packet p := by
  simp

/-- Settles O15: a built frame is the layout of a valid packet, so its length is the layout's, bounded by FRAME_MAX and,
for a DATA, by the 512 data bytes that make it valid. -/
theorem builtFrameLengths : Obligations.BuiltFrameLengths := by
  refine ⟨fun c f => ⟨fun filename h => ?rrq, fun block data h => ?data, fun block h => ?ack, fun message h => ?error⟩,
    fun c p => ⟨encode_ne_some_nil c p, decodeFrame_nil_ne_packet p⟩⟩
  case rrq =>
    obtain ⟨hlen, hmax⟩ := encode_length c _ f h
    rw [layout_length_rrq] at hlen
    omega
  case data =>
    have hlen := (encode_length c _ f h).1
    have hdata := payload_length_le_of_encode_data c block data f h
    rw [layout_length_data] at hlen
    omega
  case ack => exact (encode_length c _ f h).1.trans (layout_length_ack block)
  case error =>
    obtain ⟨hlen, hmax⟩ := encode_length c _ f h
    rw [layout_length_error] at hlen
    omega

end Sys2Proof
end

