-- ==== Sys2Proof/Proofs/DecodeOperation.lean ====
section
/-! PROOFS. The operation DECODE (`40_decode.md` R65 to R76): the state it leaves, then each kind of frame. -/

namespace Sys2Proof

/-- The payload of a packet: all its bytes after the header (R50); an ACK has none (R49). -/
def Instr.payloadBytes : Instr → List Byte
  | .rrq filename => filename
  | .data _ payload => payload
  | .ack _ => []
  | .error message => message

/-- `decode` answers Invalid on the empty frame, on a first byte that is no opcode, and on a DATA or ACK opcode with no
block byte after it (R72). -/
theorem decodeFrame_eq_invalid_iff (f : Frame) (c : Cause) : decodeFrame f = .invalid c ↔
    (f = [] ∧ c = .empty) ∨
    (∃ op rest, f = op :: rest ∧ op ≠ 1#8 ∧ op ≠ 3#8 ∧ op ≠ 4#8 ∧ op ≠ 5#8 ∧ c = .badOpcode) ∨
    ((f = [3#8] ∨ f = [4#8]) ∧ c = .short) := by
  constructor
  · induction f using frame_cases with
    | nil => rintro ⟨⟩; exact .inl ⟨rfl, rfl⟩
    | rrq p => rintro ⟨⟩
    | dataShort => rintro ⟨⟩; exact .inr (.inr ⟨.inl rfl, rfl⟩)
    | data b p => rintro ⟨⟩
    | ackShort => rintro ⟨⟩; exact .inr (.inr ⟨.inr rfl, rfl⟩)
    | ack b p => rintro ⟨⟩
    | error p => rintro ⟨⟩
    | other op p h1 h3 h4 h5 =>
      rw [decodeFrame_other op p h1 h3 h4 h5]
      rintro ⟨⟩
      exact .inr (.inl ⟨op, p, rfl, h1, h3, h4, h5, rfl⟩)
  · rintro (⟨rfl, rfl⟩ | ⟨op, rest, rfl, h1, h3, h4, h5, rfl⟩ | ⟨rfl | rfl, rfl⟩)
    · exact decodeFrame_nil
    · exact decodeFrame_other op rest h1 h3 h4 h5
    · exact decodeFrame_three_nil
    · exact decodeFrame_four_nil

/-- A DATA with more than 512 data bytes is not valid (R20) and does not end a transfer (R56). -/
theorem data_not_valid_not_last (c : Config) (block : Byte) (data : List Byte) (h : 512 < data.length) :
    (Instr.data block data).valid c = false ∧ (Instr.data block data).last = false :=
  ⟨decide_eq_false (Nat.not_le.2 h), decide_eq_false (Nat.not_lt.2 h.le)⟩

end Sys2Proof

namespace Sys2Proof.Machine

/-- The state DECODE leaves when the frame fits (R65, `opDecode_eq`). -/
def State.received (s : State) (f : Frame) : State :=
  ((s.loadFrame .rx f).setRes (resOf (decodeFrame f))).answer (replyOf (decodeFrame f))

/-- DECODE answers a next state only for a frame that fits, and then this one. -/
theorem opDecode_eq_next_iff (f : Frame) (s t : State) :
    opDecode f s = .next t ↔ f.length ≤ s.cfg.frameMax ∧ t = s.received f := by
  by_cases hf : f.length ≤ s.cfg.frameMax
  · simp [opDecode_eq f s hf, hf, State.received, eq_comm]
  · simp [opDecode_refused f s hf, hf]

/-- Of a state that received a frame: RX holds the frame, and TX, BLK, FLT and the configuration are as before. -/
def State.ReceivedOnly (s t : State) (f : Frame) : Prop :=
  t.Holds .rx f ∧ s.SameTx t ∧ t.blk = s.blk ∧ t.flt = s.flt ∧ t.cfg = s.cfg

/-- Whatever the frame, DECODE puts it in RX, writes RES, and keeps the rest of the block (R65, R72). -/
theorem State.receivedOnly_received (s : State) (f : Frame) : s.ReceivedOnly (s.received f) f :=
  ⟨⟨rfl, fun a h => (Memory.read_loaded f a).trans (List.getElem?_eq_getElem h)⟩, ⟨rfl, fun _ => rfl⟩, rfl, rfl, rfl⟩

/-- `MemRead` of RX after a DECODE of a header and a payload gives the payload, read at the header's end (R50). -/
theorem State.memRead_after_header (s : State) (header payload : List Byte) (r : Res) (y : Reply) :
    (((s.loadFrame .rx (header ++ payload)).setRes r).answer y).memRead .rx header.length payload.length =
      some payload := by
  simp [State.memRead_received]

/-- After a DECODE that found a packet, the slice of RX that RES describes is the packet's payload (R13, R68 to R71). -/
theorem State.payload_received (s : State) (f : Frame) (p : Instr) (h : decodeFrame f = .packet p) :
    (s.received f).payload = some p.payloadBytes := by
  induction f using frame_cases with
  | nil => cases h
  | rrq filename => cases h; exact State.memRead_after_header s [1#8] filename _ _
  | dataShort => cases h
  | data block data => cases h; exact State.memRead_after_header s [3#8, block] data _ _
  | ackShort => cases h
  | ack block extra =>
    cases h
    exact (State.memRead_received s (4#8 :: block :: extra) _ _ 2 0).trans (by simp [Instr.payloadBytes])
  | error message => cases h; exact State.memRead_after_header s [5#8] message _ _
  | other op rest h1 h3 h4 h5 => rw [decodeFrame_other op rest h1 h3 h4 h5] at h; cases h

/-- DECODE of a frame that fits and is a packet: what RES stands for is the packet, whatever its kind (R68 to R71). -/
theorem opDecode_packet (s : State) (f : Frame) (p : Instr) (hfit : f.length ≤ s.cfg.frameMax)
    (hp : decodeFrame f = .packet p) :
    ∃ t, opDecode f s = .next t ∧ t.res = resOf (.packet p) ∧ t.payload = some p.payloadBytes ∧
      t.resValue = some (.packet p) ∧ s.ReceivedOnly t f :=
  ⟨s.received f, opDecode_eq f s hfit, congrArg resOf hp, s.payload_received f p hp,
    (s.resValue_received f _).trans (congrArg some hp), s.receivedOnly_received f⟩

/-- DECODE of a frame that fits and is no packet: RES holds the cause and 0 in every other field (R72). -/
theorem opDecode_invalid (s : State) (f : Frame) (c : Cause) (hfit : f.length ≤ s.cfg.frameMax)
    (hc : decodeFrame f = .invalid c) :
    ∃ t, opDecode f s = .next t ∧ t.res = resInvalid c ∧ t.resValue = some (.invalid c) ∧ s.ReceivedOnly t f :=
  ⟨s.received f, opDecode_eq f s hfit, congrArg resOf hc, (s.resValue_received f _).trans (congrArg some hc),
    s.receivedOnly_received f⟩

/-- DECODE of a DATA or ACK opcode alone, which every frame buffer holds: Invalid(SHORT) (R69, R70). -/
theorem opDecode_short (s : State) (op : Byte) (hshort : decodeFrame [op] = .invalid .short) :
    ∃ t, opDecode [op] s = .next t ∧ t.res = resInvalid .short ∧ s.ReceivedOnly t [op] := by
  have hfit : [op].length ≤ s.cfg.frameMax := le_trans (by simp) s.cfg.dataFrameMax_le
  obtain ⟨t, ht, hres, -, hrest⟩ := opDecode_invalid s [op] .short hfit hshort
  exact ⟨t, ht, hres, hrest⟩

/-- The payload slice after a DECODE, of a packet or not, is the same from any two states (R73). -/
theorem State.payload_received_congr (s₁ s₂ : State) (f : Frame) :
    (s₁.received f).payload = (s₂.received f).payload :=
  State.memRead_congr (s := s₂.received f) (t := s₁.received f) (sp := .rx) rfl rfl _ _

end Sys2Proof.Machine

namespace Sys2Proof
open Machine

/-- Settles O2: the cases of Invalid are the parser's arms, and DECODE writes the cause it is given. -/
theorem invalidInExactlyThreeCases : Obligations.InvalidInExactlyThreeCases := by
  refine ⟨decodeFrame_eq_invalid_iff, fun s f c hfit hc => ?_⟩
  obtain ⟨t, ht, hres, hval, hrx, hrest⟩ := opDecode_invalid s f c hfit hc
  exact ⟨t, ht, hrx, hres, hval, hrest⟩

/-- Settles O5: every frame that begins with 1 is an RRQ, so DECODE's law for packets applies. -/
theorem rrqFrameGivesFilename : Obligations.RrqFrameGivesFilename := fun s filename hfit =>
  opDecode_packet s (1#8 :: filename) (.rrq filename) hfit (decodeFrame_one filename)

/-- Settles O6: DECODE's law for packets sets no bound on the data but FRAME_MAX, and 512 is a bound on valid packets
alone. -/
theorem dataFrameGivesBlockAndData : Obligations.DataFrameGivesBlockAndData := by
  refine ⟨fun s block data hfit => ?_, fun s => opDecode_short s 3#8 decodeFrame_three_nil⟩
  obtain ⟨t, ht, hres, hpay, hval, hrx, htx, hblk, hflt, hcfg⟩ :=
    opDecode_packet s (3#8 :: block :: data) (.data block data) hfit (decodeFrame_three block data)
  exact ⟨t, ht, hres, hpay, hval, hrx, htx, hblk, hflt, hcfg, data_not_valid_not_last s.cfg block data⟩

/-- Settles O7: the bytes after the block byte are in RX but not in the packet, whose own frame ends with the block. -/
theorem ackFrameGivesBlock : Obligations.AckFrameGivesBlock := by
  refine ⟨fun s block extra hfit => ?_, fun s => opDecode_short s 4#8 decodeFrame_four_nil⟩
  obtain ⟨t, ht, hres, hpay, hval, hrest⟩ :=
    opDecode_packet s (4#8 :: block :: extra) (.ack block) hfit (decodeFrame_four block extra)
  have henc : encode s.cfg (.ack block) = some [4#8, block] := (encode_eq_some_iff s.cfg _ _).2 ⟨rfl, rfl⟩
  exact ⟨t, ht, hres, hpay, hval, henc, hrest⟩

/-- Settles O8: every frame that begins with 5 is an ERROR, so DECODE's law for packets applies. -/
theorem errorFrameGivesMessage : Obligations.ErrorFrameGivesMessage := fun s message hfit =>
  opDecode_packet s (5#8 :: message) (.error message) hfit (decodeFrame_five message)

/-- Settles O9: a DECODE that answers leaves `State.received`, whose receive side is made from the frame alone. -/
theorem decodeDependsOnFrameAlone : Obligations.DecodeDependsOnFrameAlone := by
  refine ⟨fun s f hfit => ⟨s.received f, opDecode_eq f s hfit, rfl⟩, fun s₁ s₂ t₁ t₂ f h₁ h₂ => ?_,
    fun block rest => ⟨⟨_, decodeFrame_three block rest⟩, ⟨_, decodeFrame_four block rest⟩⟩⟩
  obtain ⟨-, rfl⟩ := (opDecode_eq_next_iff f s₁ t₁).1 h₁
  obtain ⟨-, rfl⟩ := (opDecode_eq_next_iff f s₂ t₂).1 h₂
  have hvalue : (s₁.received f).resValue = (s₂.received f).resValue :=
    (s₁.resValue_received f _).trans (s₂.resValue_received f _).symm
  exact ⟨rfl, rfl, fun _ _ => rfl, s₁.payload_received_congr s₂ f, hvalue⟩

end Sys2Proof
end

