-- ==== Sys2Proof/Proofs/EncodeOperation.lean ====
section
/-! PROOFS. The operation ENCODE (`41_encode.md` R80 to R85): the frame it builds of a valid packet, and the refusal of
any other. -/

namespace Sys2Proof

/-- ENCODE's test refuses a DATA of more than 512 data bytes and an RRQ or ERROR whose frame exceeds FRAME_MAX, each with
its own reason, and nothing else (R85). -/
theorem encReason_eq_some_iff (c : Config) (p : Instr) (r : EncReason) : encReason c p = some r ↔
    (∃ block data, p = .data block data ∧ 512 < data.length ∧ r = .dataTooLong) ∨
    (∃ payload, (p = .rrq payload ∨ p = .error payload) ∧ c.frameMax < payload.length + 1 ∧ r = .frameTooLong) := by
  have hmax := c.dataFrameMax_le
  have hfit (payload : List Byte) : c.frameMax - 1 < payload.length ↔ c.frameMax < payload.length + 1 := by omega
  have hdata (payload : List Byte) : Config.dataMax < payload.length ↔ 512 < payload.length := Iff.rfl
  cases p with
  | rrq filename => simp [encReason, hfit, eq_comm (a := r)]
  | data block payload => simp [encReason, hdata, eq_comm (a := r)]
  | ack block => simp [encReason]
  | error message => simp [encReason, hfit, eq_comm (a := r)]

/-- A packet that is not valid has a reason to be refused (R20, R85). -/
theorem exists_encReason_of_not_valid (c : Config) (p : Instr) (h : p.valid c = false) : ∃ r, encReason c p = some r := by
  refine Option.ne_none_iff_exists'.1 fun hnone => ?_
  rw [(encReason_eq_none_iff c p).1 hnone] at h
  cases h

/-- `encode` has no value on a packet that is not valid (R85). -/
theorem encode_eq_none_of_not_valid (c : Config) (p : Instr) (h : p.valid c = false) : encode c p = none := by
  obtain ⟨r, hr⟩ := exists_encReason_of_not_valid c p h
  rw [encode, hr]

end Sys2Proof

namespace Sys2Proof.Machine

/-- Of a state in which a frame was built: TX holds the frame, and RX, RES, BLK, FLT and the configuration are as
before. -/
def State.BuiltOnly (s t : State) (f : Frame) : Prop :=
  t.Holds .tx f ∧ t.txFrame = some f ∧ s.SameRx t ∧ t.res = s.res ∧ t.blk = s.blk ∧ t.flt = s.flt ∧ t.cfg = s.cfg

/-- ENCODE of a valid packet puts the packet's layout in TX and keeps the rest of the block (R80 to R84). -/
theorem opEncode_builds (s : State) (p : Instr) (h : p.valid s.cfg = true) :
    ∃ t, opEncode p s = .next t ∧ s.BuiltOnly t (layout p) :=
  ⟨_, opEncode_valid p s h,
    ⟨rfl, fun a ha => (Memory.read_loaded (layout p) a).trans (List.getElem?_eq_getElem ha)⟩,
    State.txFrame_built s (layout p) .done, ⟨rfl, fun _ => rfl⟩, rfl, rfl, rfl, rfl⟩

/-- ENCODE of a packet that has a reason to be refused raises EncRefused with it and writes nothing else (R85, R115). -/
theorem opEncode_refuses (s : State) (p : Instr) (r : EncReason) (h : encReason s.cfg p = some r) :
    ∃ t, opEncode p s = .next t ∧ s.EncRefusedOnly t r :=
  ⟨_, opEncode_refused p s r h, rfl, rfl, rfl, ⟨rfl, fun _ => rfl⟩, ⟨rfl, fun _ => rfl⟩, rfl, rfl, rfl⟩

/-- ENCODE of a valid packet whose frame is the opcode and a payload: TXLEN is one more than the payload (R81, R84). -/
theorem opEncode_builds_opcode_payload (s : State) (p : Instr) (op : Byte) (payload : List Byte)
    (hv : p.valid s.cfg = true) (hp : layout p = op :: payload) :
    ∃ t, opEncode p s = .next t ∧ t.Holds .tx (op :: payload) ∧ t.txFrame = some (op :: payload) ∧
      t.txlen = 1 + payload.length ∧
      s.SameRx t ∧ t.res = s.res ∧ t.blk = s.blk ∧ t.flt = s.flt ∧ t.cfg = s.cfg := by
  obtain ⟨t, ht, hholds, hframe, hrest⟩ := opEncode_builds s p hv
  rw [hp] at hholds hframe
  exact ⟨t, ht, hholds, hframe, hholds.1.trans (Nat.add_comm _ _), hrest⟩

end Sys2Proof.Machine

namespace Sys2Proof
open Machine

/-- Settles O11: an RRQ and an ERROR are valid up to FRAME_MAX - 1 payload bytes, and beyond have the reason
FRAME_TOO_LONG. -/
theorem encodeBuildsRrqAndError : Obligations.EncodeBuildsRrqAndError := by
  intro s payload
  constructor
  · intro hfit
    exact ⟨opEncode_builds_opcode_payload s (.rrq payload) 1#8 payload (decide_eq_true hfit) rfl,
      opEncode_builds_opcode_payload s (.error payload) 5#8 payload (decide_eq_true hfit) rfl⟩
  · intro hlong
    have hover : s.cfg.frameMax < payload.length + 1 := by omega
    exact ⟨opEncode_refuses s _ _ ((encReason_eq_some_iff s.cfg _ _).2 (.inr ⟨payload, .inl rfl, hover, rfl⟩)),
      opEncode_refuses s _ _ ((encReason_eq_some_iff s.cfg _ _).2 (.inr ⟨payload, .inr rfl, hover, rfl⟩))⟩

/-- Settles O12: a DATA is valid up to 512 data bytes, whatever its block, and beyond has the reason DATA_TOO_LONG; an ACK
is always valid. -/
theorem encodeBuildsDataAndAck : Obligations.EncodeBuildsDataAndAck := by
  intro s block data
  refine ⟨fun hfit => ?data, fun hlong => ?long, ?ack⟩
  case data =>
    obtain ⟨t, ht, hholds, hframe, hrest⟩ := opEncode_builds s (.data block data) (decide_eq_true hfit)
    have hlen : t.txlen = data.length + 2 := hholds.1
    exact ⟨t, ht, hholds, hframe, by omega, by omega, by omega, hrest⟩
  case long =>
    exact opEncode_refuses s _ _ ((encReason_eq_some_iff s.cfg _ _).2 (.inl ⟨block, data, rfl, hlong, rfl⟩))
  case ack =>
    obtain ⟨t, ht, hholds, hframe, hrest⟩ := opEncode_builds s (.ack block) rfl
    exact ⟨t, ht, hholds, hframe, hholds.1, hrest⟩

/-- Settles O13: the reason a packet that is not valid is refused tells its kind and its length. -/
theorem encodeRefusesInvalidPackets : Obligations.EncodeRefusesInvalidPackets := by
  refine ⟨fun s p hinvalid => ⟨encode_eq_none_of_not_valid s.cfg p hinvalid, ?_⟩,
    fun s t op hset h hop => (issue_keeps_set_flags op s t h hop).2 hset⟩
  obtain ⟨r, hr⟩ := exists_encReason_of_not_valid s.cfg p hinvalid
  have hrefused := opEncode_refuses s p r hr
  rcases (encReason_eq_some_iff s.cfg p r).1 hr with ⟨block, data, hp, hlong, rfl⟩ | ⟨payload, hp, hlong, rfl⟩
  · exact .inl ⟨block, data, hp, hlong, hrefused⟩
  · exact .inr ⟨payload, hp, hlong, hrefused⟩

end Sys2Proof
end

