-- ==== Sys2Proof/Proofs/RoundTrip.lean ====
section
/-! PROOFS. The round trip of the codec (`41_encode.md` R86, R87): the decoder takes back what the encoder built, and the
encoder builds what the decoder took, but for the bytes after an ACK's block. -/

namespace Sys2Proof

/-- Every packet decodes back from its layout, whatever its length and its block (R86). -/
theorem decodeFrame_layout (p : Instr) : decodeFrame (layout p) = .packet p := by
  cases p <;> rfl

/-- The converse: a frame that decodes to a packet is the packet's layout, but for an ACK's frame of more than 2 bytes
(R86, R75). -/
theorem eq_layout_of_decodeFrame (f : Frame) (p : Instr) (h : decodeFrame f = .packet p)
    (hack : ∀ block, p = .ack block → f.length = 2) : f = layout p := by
  induction f using frame_cases with
  | nil => cases h
  | rrq filename => cases h; rfl
  | dataShort => cases h
  | data block data => cases h; rfl
  | ackShort => cases h
  | ack block extra =>
    cases h
    obtain rfl : extra = [] := by simpa using hack block rfl
    rfl
  | error message => cases h; rfl
  | other op rest h1 h3 h4 h5 => rw [decodeFrame_other op rest h1 h3 h4 h5] at h; cases h

end Sys2Proof

namespace Sys2Proof.Machine

/-- ENCODE of a valid packet, then DECODE of the frame it left in TX: both complete, and RES stands for the packet
(R86). -/
theorem opEncode_then_opDecode (s : State) (p : Instr) (h : p.valid s.cfg = true) :
    ∃ t u, opEncode p s = .next t ∧ t.txFrame = some (layout p) ∧ opDecode (layout p) t = .next u ∧
      u.res = resOf (.packet p) ∧ u.resValue = some (.packet p) := by
  obtain ⟨t, ht, -, hframe, -, -, -, -, hcfg⟩ := opEncode_builds s p h
  have hfit : (layout p).length ≤ t.cfg.frameMax := hcfg ▸ layout_length_le s.cfg p h
  obtain ⟨u, hu, hres, -, hvalue, -⟩ := opDecode_packet t (layout p) p hfit (decodeFrame_layout p)
  exact ⟨t, u, ht, hframe, hu, hres, hvalue⟩

end Sys2Proof.Machine

namespace Sys2Proof
open Machine

/-- Settles O16: the frame of a valid packet is its layout, and `decode` and `layout` are inverse to each other but for the
bytes after an ACK's block. -/
theorem encodedPacketsDecodeBack : Obligations.EncodedPacketsDecodeBack := by
  refine ⟨fun c p hv => ?functions, fun s t p hv h => ?registers, fun c f p hdec hv hack => ?converse,
    fun c block data hlong => ?overlong⟩
  case functions => exact ⟨layout p, (encode_eq_some_iff c p _).2 ⟨hv, rfl⟩, decodeFrame_layout p⟩
  case registers =>
    obtain ⟨t', u, ht', hframe, hu, -, hvalue⟩ := opEncode_then_opDecode s p hv
    obtain rfl : t' = t := Host.Outcome.next.inj (ht'.symm.trans h)
    exact ⟨layout p, u, hframe, hu, hvalue⟩
  case converse => exact (encode_eq_some_iff c p f).2 ⟨hv, eq_layout_of_decodeFrame f p hdec hack⟩
  case overlong => exact encode_eq_none_of_not_valid c _ (data_not_valid_not_last c block data hlong).1

/-- Settles O17: the byte at offset 1 of the layout of an ACK or DATA is its block, and the round trip's RES has it in
RES.BLK. -/
theorem blockByteSurvivesRoundTrip : Obligations.BlockByteSurvivesRoundTrip := by
  rintro s block data p (rfl | ⟨rfl, hfit⟩)
  case inl =>
    obtain ⟨t, u, ht, hframe, hu, hres, -⟩ := opEncode_then_opDecode s (.ack block) rfl
    exact ⟨t, _, u, ht, hframe, rfl, hu, by rw [hres]; rfl, by rw [hres]; rfl⟩
  case inr =>
    obtain ⟨t, u, ht, hframe, hu, hres, -⟩ := opEncode_then_opDecode s (.data block data) (decide_eq_true hfit)
    exact ⟨t, _, u, ht, hframe, rfl, hu, by rw [hres]; rfl, by rw [hres]; rfl⟩

end Sys2Proof
end

