-- ==== Sys2Proof/Proofs/BlockNumbers.lean ====
section
/-! PROOFS. The functions `next` and `prev` in their closed forms (`42_sequencer.md` R96, R97): the arithmetic that every
operation of the sequencer is read off from. -/

namespace Sys2Proof.Machine

/-- `next` is defined off 0, and is the cyclic shift of 1 to 255 (R96). -/
theorem nextBlock_eq_some_iff (n m : Byte) :
    nextBlock n = some m ↔ n ≠ 0#8 ∧ m.toNat = n.toNat % 255 + 1 := by
  by_cases h0 : n = 0#8
  · simp [h0]
  · rw [nextBlock_of_ne n h0, Option.some_inj]
    by_cases h255 : n = 255#8
    · rw [if_pos h255]; bv_omega
    · rw [if_neg h255]; bv_omega

/-- `prev` is defined off 0, and shifts by 254, which is -1 modulo 255 (R97). -/
theorem prevBlock_eq_some_iff (n m : Byte) :
    prevBlock n = some m ↔ n ≠ 0#8 ∧ m.toNat = (n.toNat + 253) % 255 + 1 := by
  by_cases h0 : n = 0#8
  · simp [h0]
  · rw [prevBlock_of_ne n h0, Option.some_inj]
    by_cases h1 : n = 1#8
    · rw [if_pos h1]; bv_omega
    · rw [if_neg h1]; bv_omega

/-- `prev` and `next` are inverse to each other (R98). -/
theorem prevBlock_eq_some_iff_nextBlock (n m : Byte) : prevBlock n = some m ↔ nextBlock m = some n := by
  rw [prevBlock_eq_some_iff, nextBlock_eq_some_iff]
  bv_omega

/-- 0 is the one byte `next` has no value at (R104). -/
theorem nextBlock_eq_none_iff (n : Byte) : nextBlock n = none ↔ n = 0#8 := by
  by_cases h : n = 0#8
  · simp [h]
  · simp [h, nextBlock_of_ne n h]

/-- 0 is the one byte `prev` has no value at (R104). -/
theorem prevBlock_eq_none_iff (n : Byte) : prevBlock n = none ↔ n = 0#8 := by
  by_cases h : n = 0#8
  · simp [h]
  · simp [h, prevBlock_of_ne n h]

/-- `next` has a value off 0 (R96). -/
theorem exists_nextBlock (n : Byte) (h : n ≠ 0#8) : ∃ m, nextBlock n = some m := ⟨_, nextBlock_of_ne n h⟩

/-- `prev` has a value off 0 (R97). -/
theorem exists_prevBlock (n : Byte) (h : n ≠ 0#8) : ∃ m, prevBlock n = some m := ⟨_, prevBlock_of_ne n h⟩

end Sys2Proof.Machine
end

