-- ==== Sys2Proof/Proofs/SequencerPorts.lean ====
section
/-! PROOFS. The stateless ports SEQ.NEXT and SEQ.PREV (`42_sequencer.md` R99, R100), and the fault of every operation of
the sequencer given 0 (R104). -/

namespace Sys2Proof.Machine

/-- Every register of the block reads the same in both states; the host's side of the run is left open. -/
def State.SameRegisters (s t : State) : Prop :=
  s.SameRx t ∧ s.SameTx t ∧ t.res = s.res ∧ t.blk = s.blk ∧ t.flt = s.flt ∧ t.cfg = s.cfg

/-- Returning a result to the host writes no register (R139). -/
theorem State.sameRegisters_answer (s : State) (r : Reply) : s.SameRegisters (s.answer r) :=
  ⟨⟨rfl, fun _ => rfl⟩, ⟨rfl, fun _ => rfl⟩, rfl, rfl, rfl, rfl⟩

/-- Raising SeqDomain(0) sets its flag, reports it and writes nothing else (R115). -/
theorem State.seqDomainOnly_raise (s : State) : s.SeqDomainOnly (s.raise (.seqDomain 0#8)) :=
  ⟨rfl, rfl, rfl, ⟨rfl, fun _ => rfl⟩, ⟨rfl, fun _ => rfl⟩, rfl, rfl, rfl⟩

/-- A port whose function has a value answers it and writes no register (R99, R100). -/
theorem returnByte_some (arg m : Byte) (s : State) :
    ∃ t, returnByte arg (some m) s = .next t ∧ t.replies = s.replies ++ [.byte m] ∧ s.SameRegisters t :=
  ⟨_, returnByte_eq arg (some m) s, s.answer_replies _, s.sameRegisters_answer _⟩

/-- An operation of the sequencer given 0 raises SeqDomain(0) and does nothing else (R99, R100, R101, R104). -/
theorem issue_zero_seqDomainOnly (s : State) (op : Op)
    (hop : op = .seqNext 0#8 ∨ op = .seqPrev 0#8 ∨ op = .blkLoad 0#8) :
    ∃ t, issue op s = .next t ∧ s.SeqDomainOnly t := by
  rcases hop with rfl | rfl | rfl
  · exact ⟨_, returnByte_eq 0#8 (nextBlock 0#8) s, s.seqDomainOnly_raise⟩
  · exact ⟨_, returnByte_eq 0#8 (prevBlock 0#8) s, s.seqDomainOnly_raise⟩
  · exact ⟨_, writeBlk_eq 0#8 none s, s.seqDomainOnly_raise⟩

end Sys2Proof.Machine

namespace Sys2Proof
open Machine

/-- Settles O18: the port answers what `next` returns, whose closed form gives the bounds and both cases. -/
theorem seqNextReturnsSuccessor : Obligations.SeqNextReturnsSuccessor := by
  refine fun s n => ⟨fun h0 => ?zero, fun h0 => ?domain⟩
  case zero =>
    subst h0
    exact issue_zero_seqDomainOnly s (.seqNext 0#8) (.inl rfl)
  case domain =>
    obtain ⟨m, hm⟩ := exists_nextBlock n h0
    obtain ⟨t, ht, hreply, hsame⟩ := returnByte_some n m s
    have hval := ((nextBlock_eq_some_iff n m).1 hm).2
    exact ⟨t, m, hm, by rw [opSeqNext, hm, ht], hreply, by bv_omega, by bv_omega, by omega, by omega, hsame⟩

/-- Settles O19: the port answers what `prev` returns, whose closed form gives the bounds and both cases. -/
theorem seqPrevReturnsPredecessor : Obligations.SeqPrevReturnsPredecessor := by
  refine fun s n => ⟨fun h0 => ?zero, fun h0 => ?domain⟩
  case zero =>
    subst h0
    exact issue_zero_seqDomainOnly s (.seqPrev 0#8) (.inr (.inl rfl))
  case domain =>
    obtain ⟨m, hm⟩ := exists_prevBlock n h0
    obtain ⟨t, ht, hreply, hsame⟩ := returnByte_some n m s
    have hval := ((prevBlock_eq_some_iff n m).1 hm).2
    exact ⟨t, m, hm, by rw [opSeqPrev, hm, ht], hreply, by bv_omega, by bv_omega, by omega, by omega, hsame⟩

/-- Settles O23: neither function has a value at 0, and each of the three operations raises SeqDomain there. -/
theorem onlyZeroIsOutsideTheDomain : Obligations.OnlyZeroIsOutsideTheDomain :=
  ⟨fun n => ⟨nextBlock_eq_none_iff n, prevBlock_eq_none_iff n⟩, issue_zero_seqDomainOnly⟩

end Sys2Proof
end

