-- ==== Sys2Proof/Proofs/BlockCounter.lean ====
section
/-! PROOFS. The counter register BLK (`42_sequencer.md` R101 to R103): what BLK.LOAD, BLK.INC and BLK.DEC write, and
BLK after any number of BLK.INC. -/

namespace Sys2Proof.Machine

/-- Every register but BLK reads the same in both states; the host's side of the run is left open. -/
def State.SameButBlk (s t : State) : Prop :=
  s.SameRx t ∧ s.SameTx t ∧ t.res = s.res ∧ t.flt = s.flt ∧ t.cfg = s.cfg

/-- A counter operation that has a value writes it to BLK and to no other register (R101 to R103). -/
theorem writeBlk_some (arg m : Byte) (s : State) :
    ∃ t, writeBlk arg (some m) s = .next t ∧ t.blk = m ∧ s.SameButBlk t :=
  ⟨_, writeBlk_eq arg (some m) s, rfl, ⟨rfl, fun _ => rfl⟩, ⟨rfl, fun _ => rfl⟩, rfl, rfl, rfl⟩

/-- BLK.INC writes what `next` returns of BLK (R102). -/
theorem opBlkInc_writes (s : State) (m : Byte) (h : nextBlock s.blk = some m) :
    ∃ t, opBlkInc s = .next t ∧ t.blk = m ∧ s.SameButBlk t := by
  rw [opBlkInc, h]
  exact writeBlk_some s.blk m s

/-- BLK.DEC writes what `prev` returns of BLK (R103). -/
theorem opBlkDec_writes (s : State) (m : Byte) (h : prevBlock s.blk = some m) :
    ∃ t, opBlkDec s = .next t ∧ t.blk = m ∧ s.SameButBlk t := by
  rw [opBlkDec, h]
  exact writeBlk_some s.blk m s

/-- The state a BLK.INC answers, from any state. -/
def State.incremented (s : State) : State :=
  (nextBlock s.blk).elim (s.raise (.seqDomain s.blk)) fun m => (s.setBlk m).answer .done

/-- BLK.INC answers a next state from every state. -/
theorem opBlkInc_eq (s : State) : opBlkInc s = .next s.incremented := writeBlk_eq s.blk (nextBlock s.blk) s

/-- A run of BLK.INC alone, from any state. -/
theorem opBlkInc_iterate_incremented (s : State) (k : Nat) :
    opBlkInc (State.incremented^[k] s) = .next (State.incremented^[k + 1] s) := by
  rw [Function.iterate_succ_apply', opBlkInc_eq]

/-- A legal BLK is positive as a number (R16). -/
theorem State.blk_toNat_pos (s : State) (h : s.BlkLegal) : 0 < s.blk.toNat :=
  Nat.pos_of_ne_zero fun h0 => h (BitVec.eq_of_toNat_eq h0)

/-- Off 0, BLK.INC shifts BLK cyclically in 1 to 255 (R96, R102). -/
theorem State.incremented_blk (s : State) (h : s.BlkLegal) : s.incremented.blk.toNat = s.blk.toNat % 255 + 1 := by
  obtain ⟨m, hm⟩ := exists_nextBlock s.blk h
  have hblk : s.incremented.blk = m := by rw [State.incremented, hm]; rfl
  rw [hblk]
  exact ((nextBlock_eq_some_iff s.blk m).1 hm).2

/-- BLK after `k` BLK.INC is `k` places on in the cycle of 1 to 255 (R98, R102). -/
theorem State.iterate_incremented_blk (s : State) (h : s.BlkLegal) (k : Nat) :
    (State.incremented^[k] s).blk.toNat = (s.blk.toNat + k - 1) % 255 + 1 := by
  have hpos := s.blk_toNat_pos h
  induction k with
  | zero =>
    have hlt := s.blk.isLt
    rw [Function.iterate_zero_apply]
    omega
  | succ k ih =>
    have hlegal : (State.incremented^[k] s).BlkLegal := fun h0 => by simp [h0] at ih
    rw [Function.iterate_succ_apply', State.incremented_blk _ hlegal, ih]
    omega

end Sys2Proof.Machine

namespace Sys2Proof
open Machine

/-- Settles O20: BLK.LOAD refuses 0 alone and writes any other value as it is. -/
theorem blkLoadWritesAllButZero : Obligations.BlkLoadWritesAllButZero := by
  refine fun s v => ⟨fun h0 => ?zero, fun h0 => ?nonzero⟩
  case zero =>
    subst h0
    exact issue_zero_seqDomainOnly s (.blkLoad 0#8) (.inr (.inr rfl))
  case nonzero =>
    rw [opBlkLoad, if_neg h0]
    exact writeBlk_some v v s

/-- Settles O21: one BLK.INC writes `next` of BLK, and 255 of them go once round the cycle of 1 to 255. -/
theorem blkIncWritesSuccessor : Obligations.BlkIncWritesSuccessor := by
  refine ⟨fun s hlegal => ?once, fun s hlegal => ?cycle⟩
  case once =>
    obtain ⟨m, hm⟩ := exists_nextBlock s.blk hlegal
    obtain ⟨t, ht, rfl, hsame⟩ := opBlkInc_writes s m hm
    have hval := ((nextBlock_eq_some_iff s.blk t.blk).1 hm).2
    exact ⟨t, ht, hm, by bv_omega, by bv_omega, hsame⟩
  case cycle =>
    have hpos := s.blk_toNat_pos hlegal
    have hlt := s.blk.isLt
    have hround : (State.incremented^[255] s).blk.toNat = s.blk.toNat := by
      rw [s.iterate_incremented_blk hlegal 255]
      omega
    exact ⟨fun k => State.incremented^[k] s, rfl, opBlkInc_iterate_incremented s, BitVec.eq_of_toNat_eq hround⟩

/-- Settles O22: BLK.DEC writes `prev` of BLK, and `prev` and `next` are inverse to each other. -/
theorem blkDecWritesPredecessor : Obligations.BlkDecWritesPredecessor := by
  refine ⟨fun s hlegal => ?once, fun s hlegal => ⟨?incDec, ?decInc⟩⟩
  case once =>
    obtain ⟨m, hm⟩ := exists_prevBlock s.blk hlegal
    obtain ⟨t, ht, rfl, hsame⟩ := opBlkDec_writes s m hm
    obtain ⟨h0, hval⟩ := (prevBlock_eq_some_iff s.blk t.blk).1 hm
    exact ⟨t, ht, hm, by bv_omega, by bv_omega, hsame⟩
  case incDec =>
    obtain ⟨m, hm⟩ := exists_nextBlock s.blk hlegal
    obtain ⟨t, ht, rfl, -⟩ := opBlkInc_writes s m hm
    obtain ⟨u, hu, hblk, -⟩ := opBlkDec_writes t s.blk ((prevBlock_eq_some_iff_nextBlock _ _).2 hm)
    exact ⟨t, u, ht, hu, hblk⟩
  case decInc =>
    obtain ⟨m, hm⟩ := exists_prevBlock s.blk hlegal
    obtain ⟨t, ht, rfl, -⟩ := opBlkDec_writes s m hm
    obtain ⟨u, hu, hblk, -⟩ := opBlkInc_writes t s.blk ((prevBlock_eq_some_iff_nextBlock _ _).1 hm)
    exact ⟨t, u, ht, hu, hblk⟩

end Sys2Proof
end

