-- ==== Sys2Proof/Proofs/Reset.lean ====
section
/-! PROOFS. RESET (`70_reset_and_hazards.md` R130): the state after it, and that nothing else clears a fault flag. -/

namespace Sys2Proof.Machine

/-- RESET brings back the state after power-on, but for the configuration and the host's two lists (log entry 14). -/
theorem State.clear_eq_reset (s : State) :
    s.clear = { State.reset with cfg := s.cfg, ops := s.ops, replies := s.replies } := rfl

/-- An operation that clears a set flag is RESET (R17, R130). -/
theorem eq_reset_of_clears_flag (op : Op) (s t : State) (h : issue op s = .next t)
    (hclears : (s.flt.seqDom = true ∧ t.flt.seqDom = false) ∨ (s.flt.encRef = true ∧ t.flt.encRef = false)) :
    op = .reset := by
  by_contra hop
  obtain ⟨keepsSeqDom, keepsEncRef⟩ := issue_keeps_set_flags op s t h hop
  rcases hclears with ⟨hset, hclear⟩ | ⟨hset, hclear⟩
  · exact Bool.false_ne_true (hclear.symm.trans (keepsSeqDom hset))
  · exact Bool.false_ne_true (hclear.symm.trans (keepsEncRef hset))

end Sys2Proof.Machine

namespace Sys2Proof
open Machine

/-- Settles O28: RESET's registers are those of the state after power-on, whatever they held before, and every other
operation keeps a set flag. -/
theorem resetLeavesResetValues : Obligations.ResetLeavesResetValues := by
  refine ⟨fun s => ⟨s.clear.answer .done, opReset_eq s, ?values⟩, fun s t op => eq_reset_of_clears_flag op s t⟩
  case values =>
    rw [State.clear_eq_reset]
    exact ⟨rfl, rfl, rfl, rfl, rfl, rfl, rfl, rfl, rfl, rfl⟩

end Sys2Proof
end

