-- ==== Sys2Proof/Proofs/OperationWrites.lean ====
section
/-! PROOFS. What an operation writes and what it leaves (`10_state.md` R10, column Written by), one side of the block at a
time, and how it ends (`60_exceptions.md` R110, R115). -/

namespace Sys2Proof.Machine

/-- The receive side (R12, R13) and the configuration are the same in both states, field by field. -/
structure State.SameReceiveSide (s t : State) : Prop where
  cfg : t.cfg = s.cfg
  rxbuf : t.rxbuf = s.rxbuf
  rxlen : t.rxlen = s.rxlen
  res : t.res = s.res

/-- The transmit side (R15) and the configuration are the same in both states, field by field. -/
structure State.SameTransmitSide (s t : State) : Prop where
  cfg : t.cfg = s.cfg
  txbuf : t.txbuf = s.txbuf
  txlen : t.txlen = s.txlen

/-- The state ENCODE leaves of a valid packet (R80, `opEncode_valid`). -/
def State.built (s : State) (p : Instr) : State := (s.loadFrame .tx (layout p)).answer .done

/-- The state RESET leaves (R130, `opReset_eq`). -/
def State.afterReset (s : State) : State := s.clear.answer .done

/-- An operation receives a frame, resets, or leaves the receive side as it was (R10). -/
theorem issue_receive_side (op : Op) (s t : State) (h : issue op s = .next t) :
    (∃ f, op = .decode f ∧ f.length ≤ s.cfg.frameMax ∧ t = s.received f) ∨ (op = .reset ∧ t = s.afterReset) ∨
      s.SameReceiveSide t := by
  rcases issue_cases op s t h with hdecode | ⟨p, -, -, rfl⟩ | ⟨-, r, -, -, rfl⟩ | ⟨-, m, -, rfl⟩ | ⟨m, -, rfl⟩ |
    ⟨-, rfl⟩ | hreset
  · exact .inl hdecode
  · exact .inr (.inr ⟨rfl, rfl, rfl, rfl⟩)
  · exact .inr (.inr ⟨rfl, rfl, rfl, rfl⟩)
  · exact .inr (.inr ⟨rfl, rfl, rfl, rfl⟩)
  · exact .inr (.inr ⟨rfl, rfl, rfl, rfl⟩)
  · exact .inr (.inr ⟨rfl, rfl, rfl, rfl⟩)
  · exact .inr (.inl hreset)

/-- An operation builds a valid packet's frame, resets, or leaves the transmit side as it was (R10). -/
theorem issue_transmit_side (op : Op) (s t : State) (h : issue op s = .next t) :
    (∃ p, op = .encode p ∧ p.valid s.cfg = true ∧ t = s.built p) ∨ (op = .reset ∧ t = s.afterReset) ∨
      s.SameTransmitSide t := by
  rcases issue_cases op s t h with ⟨f, -, -, rfl⟩ | hencode | ⟨-, r, -, -, rfl⟩ | ⟨-, m, -, rfl⟩ | ⟨m, -, rfl⟩ |
    ⟨-, rfl⟩ | hreset
  · exact .inr (.inr ⟨rfl, rfl, rfl⟩)
  · exact .inl hencode
  · exact .inr (.inr ⟨rfl, rfl, rfl⟩)
  · exact .inr (.inr ⟨rfl, rfl, rfl⟩)
  · exact .inr (.inr ⟨rfl, rfl, rfl⟩)
  · exact .inr (.inr ⟨rfl, rfl, rfl⟩)
  · exact .inr (.inl hreset)

/-- An operation leaves BLK, resets it to 1, or is one of the three that write it, and then it does not write 0 (R10,
R16). -/
theorem issue_blk (op : Op) (s t : State) (h : issue op s = .next t) :
    t.blk = s.blk ∨ (op = .reset ∧ t.blk = 1#8) ∨
      (((∃ v, op = .blkLoad v) ∨ op = .blkInc ∨ op = .blkDec) ∧ t.blk ≠ 0#8) := by
  rcases issue_cases op s t h with ⟨f, -, -, rfl⟩ | ⟨p, -, -, rfl⟩ | ⟨-, r, -, -, rfl⟩ | ⟨-, m, -, rfl⟩ |
    ⟨m, hwrites, rfl⟩ | ⟨-, rfl⟩ | ⟨hop, rfl⟩
  · exact .inl rfl
  · exact .inl rfl
  · exact .inl rfl
  · exact .inl rfl
  · refine .inr (.inr ?_)
    rcases hwrites with ⟨hop, hm⟩ | ⟨hop, hm⟩ | ⟨hop, hm⟩
    · exact ⟨.inl ⟨m, hop⟩, hm⟩
    · exact ⟨.inr (.inl hop), nextBlock_ne_zero s.blk m hm⟩
    · exact ⟨.inr (.inr hop), prevBlock_ne_zero s.blk m hm⟩
  · exact .inl rfl
  · exact .inr (.inl ⟨hop, rfl⟩)

/-- No operation writes the configuration or the host's list of operations (log entries 1 and 3). -/
theorem issue_cfg_ops (op : Op) (s t : State) (h : issue op s = .next t) : t.cfg = s.cfg ∧ t.ops = s.ops := by
  rcases issue_cases op s t h with ⟨f, -, -, rfl⟩ | ⟨p, -, -, rfl⟩ | ⟨-, r, -, -, rfl⟩ | ⟨-, m, -, rfl⟩ |
    ⟨m, -, rfl⟩ | ⟨-, rfl⟩ | ⟨-, rfl⟩ <;> exact ⟨rfl, rfl⟩

/-- The results an operation may end with, given BLK before it (R110): Invalid only from DECODE, a byte only from a port,
EncRefused only from ENCODE, SeqDomain(0) only from a sequencer operation with an argument or from BLK = 0 (log
entry 6). -/
def Op.MayEndWith (op : Op) (blk : Byte) : Reply → Prop
  | .done => True
  | .byte _ => ∃ n, op = .seqNext n ∨ op = .seqPrev n
  | .invalid _ => ∃ f, op = .decode f
  | .fault (.encRefused _) => ∃ p, op = .encode p
  | .fault (.seqDomain arg) =>
    arg = 0#8 ∧ ((∃ n, op = .seqNext n ∨ op = .seqPrev n ∨ op = .blkLoad n) ∨ blk = 0#8)

/-- An operation that answers adds one result, of a kind it may end with (R110, log entry 11). -/
theorem issue_replies (op : Op) (s t : State) (h : issue op s = .next t) :
    ∃ r, t.replies = s.replies ++ [r] ∧ op.MayEndWith s.blk r := by
  rcases issue_cases op s t h with ⟨f, hop, -, rfl⟩ | ⟨p, -, -, rfl⟩ | ⟨p, r, hop, -, rfl⟩ | ⟨n, m, hport, rfl⟩ |
    ⟨m, -, rfl⟩ | ⟨hop, rfl⟩ | ⟨-, rfl⟩
  · refine ⟨_, rfl, ?_⟩
    cases decodeFrame f with
    | packet p => trivial
    | invalid c => exact ⟨f, hop⟩
  · exact ⟨.done, rfl, trivial⟩
  · exact ⟨_, rfl, p, hop⟩
  · exact ⟨_, rfl, n, hport.imp And.left And.left⟩
  · exact ⟨.done, rfl, trivial⟩
  · exact ⟨_, rfl, rfl, hop.imp (⟨0#8, ·⟩) And.right⟩
  · exact ⟨.done, rfl, trivial⟩

/-- An operation that reports a fault has raised it, and may end with it (R115). -/
theorem issue_eq_raise_of_fault (op : Op) (s t : State) (f : Fault) (h : issue op s = .next t)
    (hf : t.replies = s.replies ++ [.fault f]) : t = s.raise f ∧ op.MayEndWith s.blk (.fault f) := by
  obtain ⟨r, hr, hmay⟩ := issue_replies op s t h
  obtain rfl : r = .fault f := by simpa [hr] using hf
  rcases issue_raises_or_reports_none op s t h with ⟨f', rfl⟩ | ⟨hnone, -⟩
  · obtain rfl : f' = f := by simpa using hf
    exact ⟨rfl, hmay⟩
  · exact absurd hf (hnone f)

/-- An operation but RESET leaves the flags, or raises a fault it may end with (R10, R112). -/
theorem issue_flags (op : Op) (s t : State) (h : issue op s = .next t) (hop : op ≠ .reset) :
    t.flt = s.flt ∨ ∃ f, t.flt = s.flt.mark f ∧ op.MayEndWith s.blk (.fault f) := by
  rcases issue_raises_or_reports_none op s t h with ⟨f, rfl⟩ | ⟨-, hkeep⟩
  · exact .inr ⟨f, rfl, (issue_eq_raise_of_fault op s _ f h rfl).2⟩
  · exact .inl (hkeep hop)

/-- Only ENCODE and RESET write FLT.ENCREF (R10). -/
theorem issue_encRef (op : Op) (s t : State) (h : issue op s = .next t) (hencode : ∀ p, op ≠ .encode p)
    (hreset : op ≠ .reset) : t.flt.encRef = s.flt.encRef := by
  rcases issue_flags op s t h hreset with hflt | ⟨f, hflt, hmay⟩
  · rw [hflt]
  · cases f with
    | seqDomain n => rw [hflt, Flt.mark_seqDomain]
    | encRefused r =>
      obtain ⟨p, hp⟩ := hmay
      exact absurd hp (hencode p)

/-- From a legal BLK, only SEQ.NEXT, SEQ.PREV, BLK.LOAD and RESET write FLT.SEQDOM (R10). -/
theorem issue_seqDom (op : Op) (s t : State) (h : issue op s = .next t) (hblk : s.BlkLegal)
    (hnext : ∀ n, op ≠ .seqNext n) (hprev : ∀ n, op ≠ .seqPrev n) (hload : ∀ v, op ≠ .blkLoad v)
    (hreset : op ≠ .reset) : t.flt.seqDom = s.flt.seqDom := by
  rcases issue_flags op s t h hreset with hflt | ⟨f, hflt, hmay⟩
  · rw [hflt]
  · cases f with
    | encRefused r => rw [hflt, Flt.mark_encRefused]
    | seqDomain arg =>
      obtain ⟨-, ⟨n, hn | hn | hn⟩ | hzero⟩ := hmay
      · exact absurd hn (hnext n)
      · exact absurd hn (hprev n)
      · exact absurd hn (hload n)
      · exact absurd hzero hblk

/-- Every operation answers a next state, but for a DECODE of a frame that does not fit (R110, D17). -/
theorem issue_completes (op : Op) (s : State) (hfit : ∀ f, op = .decode f → f.length ≤ s.cfg.frameMax) :
    ∃ t, issue op s = .next t := by
  cases op with
  | decode f => exact ⟨_, opDecode_eq f s (hfit f rfl)⟩
  | encode p =>
    cases hr : encReason s.cfg p with
    | none => exact ⟨_, opEncode_valid p s ((encReason_eq_none_iff s.cfg p).1 hr)⟩
    | some r => exact ⟨_, opEncode_refused p s r hr⟩
  | seqNext n => exact ⟨_, returnByte_eq n (nextBlock n) s⟩
  | seqPrev n => exact ⟨_, returnByte_eq n (prevBlock n) s⟩
  | blkLoad v => exact ⟨_, writeBlk_eq v (if v = 0#8 then none else some v) s⟩
  | blkInc => exact ⟨_, writeBlk_eq s.blk (nextBlock s.blk) s⟩
  | blkDec => exact ⟨_, writeBlk_eq s.blk (prevBlock s.blk) s⟩
  | reset => exact ⟨_, opReset_eq s⟩

/-- `MemRead` of RX is a function of the receive side (R31). -/
theorem State.SameReceiveSide.memRead {s t : State} (h : s.SameReceiveSide t) (i n : Nat) :
    t.memRead .rx i n = s.memRead .rx i n :=
  State.memRead_congr (sp := .rx) h.rxbuf h.rxlen i n

/-- The payload slice is a function of the receive side (R13). -/
theorem State.SameReceiveSide.payload {s t : State} (h : s.SameReceiveSide t) : t.payload = s.payload := by
  rw [State.payload, State.payload, h.res, h.memRead]

/-- `RES.value` is a function of the receive side (R13). -/
theorem State.SameReceiveSide.resValue {s t : State} (h : s.SameReceiveSide t) : t.resValue = s.resValue := by
  simp only [State.resValue, h.res, h.payload]

/-- The frame in RX is a function of the receive side (R12). -/
theorem State.SameReceiveSide.rxFrame {s t : State} (h : s.SameReceiveSide t) : t.rxFrame = s.rxFrame := by
  rw [State.rxFrame, State.rxFrame, h.rxlen, h.memRead]

/-- The frame in TX is a function of the transmit side (R15). -/
theorem State.SameTransmitSide.txFrame {s t : State} (h : s.SameTransmitSide t) : t.txFrame = s.txFrame := by
  rw [State.txFrame, State.txFrame, h.txlen]
  exact State.memRead_congr (sp := .tx) h.txbuf h.txlen _ _

end Sys2Proof.Machine

namespace Sys2Proof
open Machine

/-- Settles O26: the operation completes, and the one result it adds is of a kind it may end with; a legal BLK leaves
SeqDomain to the operations that have an argument. -/
theorem everyOperationEndsInOneOfThreeWays : Obligations.EveryOperationEndsInOneOfThreeWays := by
  intro s op hblk hfit
  obtain ⟨t, ht⟩ := issue_completes op s hfit
  obtain ⟨r, hr, hmay⟩ := issue_replies op s t ht
  refine ⟨t, r, ht, hr, ?invalid, ?byte, ?fault⟩
  case invalid => rintro c rfl; exact hmay
  case byte => rintro b rfl; exact hmay
  case fault =>
    rintro e rfl
    cases e with
    | encRefused reason => exact .inl hmay
    | seqDomain arg => exact .inr (hmay.2.resolve_right hblk)

/-- Settles O27: a reported fault was raised, and raising one writes its flag and the report. -/
theorem faultsWriteTheirFlagOnly : Obligations.FaultsWriteTheirFlagOnly := by
  refine fun s t op h => ⟨fun n hn => ?seqDomain, fun r hr => ?encRefused⟩
  case seqDomain =>
    obtain ⟨rfl, hzero, -⟩ := issue_eq_raise_of_fault op s t _ h hn
    exact ⟨hzero, rfl⟩
  case encRefused =>
    obtain ⟨rfl, -⟩ := issue_eq_raise_of_fault op s t _ h hr
    rfl

/-- Settles O34: each side of the block, BLK and each flag has its own law of who writes it. -/
theorem operationsWriteOnlyTheirRegisters : Obligations.OperationsWriteOnlyTheirRegisters := by
  intro s t op h
  obtain ⟨hcfg, hops⟩ := issue_cfg_ops op s t h
  refine ⟨hcfg, hops, fun hdecode hreset => ?rx, fun hencode hreset => ?tx, fun hload hinc hdec hreset => ?blk,
    issue_encRef op s t h, issue_seqDom op s t h⟩
  case rx =>
    rcases issue_receive_side op s t h with ⟨f, hop, -⟩ | ⟨hop, -⟩ | hsame
    · exact absurd hop (hdecode f)
    · exact absurd hop hreset
    · exact ⟨⟨hsame.rxlen, fun a => by rw [hsame.rxbuf]⟩, hsame.res⟩
  case tx =>
    rcases issue_transmit_side op s t h with ⟨p, hop, -⟩ | ⟨hop, -⟩ | hsame
    · exact absurd hop (hencode p)
    · exact absurd hop hreset
    · exact ⟨hsame.txlen, fun a => by rw [hsame.txbuf]⟩
  case blk =>
    rcases issue_blk op s t h with hsame | ⟨hop, -⟩ | ⟨⟨v, hop⟩ | hop | hop, -⟩
    · exact hsame
    · exact absurd hop hreset
    · exact absurd hop (hload v)
    · exact absurd hop hinc
    · exact absurd hop hdec

/-- Settles O39: what the host reads of a side of the block is a function of that side, which only its own operation and
RESET write. -/
theorem payloadLivesUntilTheNextDecode : Obligations.PayloadLivesUntilTheNextDecode := by
  refine fun s t op h hreset => ⟨fun hdecode => ?received, fun hinvalid => ?built⟩
  case received =>
    rcases issue_receive_side op s t h with ⟨f, hop, -⟩ | ⟨hop, -⟩ | hsame
    · exact absurd hop (hdecode f)
    · exact absurd hop hreset
    · exact ⟨hsame.payload, hsame.resValue, hsame.rxFrame⟩
  case built =>
    rcases issue_transmit_side op s t h with ⟨p, hop, hvalid, -⟩ | ⟨hop, -⟩ | hsame
    · exact absurd hvalid (Bool.eq_false_iff.1 (hinvalid p hop))
    · exact absurd hop hreset
    · exact hsame.txFrame

end Sys2Proof
end

