-- ==== Sys2Proof/Proofs/Invariants.lean ====
section
/-! PROOFS. The invariants of the state (`10_state.md` sections 3 to 5): each holds after RESET and is kept by every
operation, so every step keeps them all. -/

namespace Sys2Proof.Machine

/-- A predicate of the receive side holds after every operation if it holds of every received frame, after RESET, and of
every state with the same receive side. -/
theorem issue_keeps_of_receive_side {P : State → Prop} (op : Op) (s t : State)
    (hreceived : ∀ f, f.length ≤ s.cfg.frameMax → P (s.received f)) (hreset : P s.afterReset)
    (hsame : s.SameReceiveSide t → P s → P t) (hs : P s) (h : issue op s = .next t) : P t := by
  rcases issue_receive_side op s t h with ⟨f, -, hfit, rfl⟩ | ⟨-, rfl⟩ | hkeep
  · exact hreceived f hfit
  · exact hreset
  · exact hsame hkeep hs

/-- A predicate of the transmit side holds after every operation if it holds of every built frame, after RESET, and of
every state with the same transmit side. -/
theorem issue_keeps_of_transmit_side {P : State → Prop} (op : Op) (s t : State)
    (hbuilt : ∀ p, p.valid s.cfg = true → P (s.built p)) (hreset : P s.afterReset)
    (hsame : s.SameTransmitSide t → P s → P t) (hs : P s) (h : issue op s = .next t) : P t := by
  rcases issue_transmit_side op s t h with ⟨p, -, hvalid, rfl⟩ | ⟨-, rfl⟩ | hkeep
  · exact hbuilt p hvalid
  · exact hreset
  · exact hsame hkeep hs

/-- What every operation keeps, and the host's list of operations does not bear on, every step keeps. -/
theorem step_keeps_of_issue_keeps {P : State → Prop} (s t : State)
    (hops : ∀ rest, P s → P { s with ops := rest })
    (hissue : ∀ op u, P u → issue op u = .next t → P t) (hs : P s) (h : step s = .next t) : P t := by
  rcases step_cases s t h with ⟨-, rfl⟩ | ⟨op, rest, -, hop⟩
  · exact hs
  · exact hissue op _ (hops rest hs) hop

/-! ## The two buffers -/

/-- Every operation keeps the canonical form of both buffers. -/
theorem issue_keeps_buffersWf (op : Op) (s t : State) (hs : s.BuffersWf) (h : issue op s = .next t) : t.BuffersWf :=
  ⟨issue_keeps_of_receive_side (P := fun u => Memory.wf u.rxbuf = true) op s t (fun f _ => Memory.wf_loaded f) rfl
      (fun hsame hw => by rwa [hsame.rxbuf]) hs.1 h,
    issue_keeps_of_transmit_side (P := fun u => Memory.wf u.txbuf = true) op s t (fun p _ => Memory.wf_loaded (layout p))
      rfl (fun hsame hw => by rwa [hsame.txbuf]) hs.2 h⟩

/-- A buffer loaded with a frame has a value at exactly the offsets below the frame's length (R12, R15). -/
theorem Memory.isSome_read_loaded (f : Frame) (a : Nat) :
    (Memory.read (Memory.writeBytes [] 0 f) a).isSome ↔ a < f.length := by
  simp

/-- After RESET neither buffer has a value at any offset, and both lengths are 0 (R131). -/
theorem State.extentHeld_afterReset (s : State) (sp : Space) : s.afterReset.ExtentHeld sp := by
  cases sp <;> exact ⟨Nat.zero_le _, fun a => by simp [State.afterReset]⟩

/-- RX holds a value at exactly its valid extent after every operation. -/
theorem issue_keeps_extentHeld_rx (op : Op) (s t : State) (hs : s.ExtentHeld .rx) (h : issue op s = .next t) :
    t.ExtentHeld .rx := by
  refine issue_keeps_of_receive_side (P := (State.ExtentHeld · .rx)) op s t
    (fun f hfit => ⟨hfit, Memory.isSome_read_loaded f⟩)
    (s.extentHeld_afterReset .rx) (fun hsame hs => ?_) hs h
  simpa only [State.ExtentHeld, State.extent_rx, State.buffer_rx, hsame.cfg, hsame.rxbuf, hsame.rxlen] using hs

/-- TX holds a value at exactly its valid extent after every operation. -/
theorem issue_keeps_extentHeld_tx (op : Op) (s t : State) (hs : s.ExtentHeld .tx) (h : issue op s = .next t) :
    t.ExtentHeld .tx := by
  refine issue_keeps_of_transmit_side (P := (State.ExtentHeld · .tx)) op s t
    (fun p hvalid => ⟨layout_length_le s.cfg p hvalid, Memory.isSome_read_loaded (layout p)⟩)
    (s.extentHeld_afterReset .tx) (fun hsame hs => ?_) hs h
  simpa only [State.ExtentHeld, State.extent_tx, State.buffer_tx, hsame.cfg, hsame.txbuf, hsame.txlen] using hs

/-! ## RES -/

/-- An Invalid result with a cause is legal (R13). -/
theorem State.resultLegal_of_invalid (s : State) (c : Cause) (hc : c ≠ .none) (hres : s.res = resInvalid c) :
    s.ResultLegal := by
  simpa [State.ResultLegal, hres, resInvalid] using hc

/-- What DECODE writes to RES is legal beside the frame it received (R13, R68 to R72). -/
theorem State.resultLegal_received (s : State) (f : Frame) : (s.received f).ResultLegal := by
  induction f using frame_cases with
  | nil => exact State.resultLegal_of_invalid _ .empty (by decide) rfl
  | rrq p => exact ⟨nofun, fun _ => ⟨rfl, .inl ⟨.inl rfl, rfl, rfl, rfl⟩⟩⟩
  | dataShort => exact State.resultLegal_of_invalid _ .short (by decide) rfl
  | data b p => exact ⟨nofun, fun _ => ⟨rfl, .inr (.inl ⟨rfl, rfl, rfl⟩)⟩⟩
  | ackShort => exact State.resultLegal_of_invalid _ .short (by decide) rfl
  | ack b p => exact ⟨nofun, fun _ => ⟨rfl, .inr (.inr ⟨rfl, rfl, rfl, Nat.le_add_left 2 _⟩)⟩⟩
  | error p => exact ⟨nofun, fun _ => ⟨rfl, .inl ⟨.inr rfl, rfl, rfl, rfl⟩⟩⟩
  | other op p h1 h3 h4 h5 =>
    have hres : (s.received (op :: p)).res = resInvalid .badOpcode :=
      congrArg resOf (decodeFrame_other op p h1 h3 h4 h5)
    exact State.resultLegal_of_invalid _ .badOpcode (by decide) hres

/-- RES is legal after every operation (R13). -/
theorem issue_keeps_resultLegal (op : Op) (s t : State) (hs : s.ResultLegal) (h : issue op s = .next t) :
    t.ResultLegal := by
  refine issue_keeps_of_receive_side op s t (fun f _ => s.resultLegal_received f)
    (State.resultLegal_of_invalid _ .empty (by decide) rfl) (fun hsame hs => ?_) hs h
  simpa only [State.ResultLegal, hsame.res, hsame.rxlen] using hs

/-- RESET's RES is the decoding of the empty frame (R14). -/
theorem State.resultMatches_afterReset (s : State) : s.afterReset.ResultMatches := ⟨[], rfl, rfl⟩

/-- `RES.value` is the decoding of the frame in RX after every operation (R14). -/
theorem issue_keeps_resultMatches (op : Op) (s t : State) (hs : s.ResultMatches) (h : issue op s = .next t) :
    t.ResultMatches := by
  refine issue_keeps_of_receive_side op s t
    (fun f _ => ⟨f, s.rxFrame_received f _ _, s.resValue_received f _⟩) s.resultMatches_afterReset
    (fun hsame hs => ?_) hs h
  simpa only [State.ResultMatches, hsame.rxFrame, hsame.resValue] using hs

/-! ## TX and BLK -/

/-- TX is empty or holds a valid packet's frame after every operation (R15). -/
theorem issue_keeps_transmitBuilt (op : Op) (s t : State) (hs : s.TransmitBuilt) (h : issue op s = .next t) :
    t.TransmitBuilt := by
  refine issue_keeps_of_transmit_side op s t (fun p hvalid => .inr ⟨p, layout p, ?_, s.txFrame_built (layout p) _⟩)
    (.inl rfl) (fun hsame hs => ?_) hs h
  · exact (encode_eq_some_iff s.cfg p _).2 ⟨hvalid, rfl⟩
  · simpa only [State.TransmitBuilt, hsame.cfg, hsame.txlen, hsame.txFrame] using hs

/-- A BLK of 1, which RESET writes, is legal (R16, R130). -/
theorem State.blkLegal_of_blk_eq_one (s : State) (h : s.blk = 1#8) : s.BlkLegal := by
  rw [State.BlkLegal, h]
  decide

/-- BLK is not 0 after every operation (R16). -/
theorem issue_keeps_blkLegal (op : Op) (s t : State) (hs : s.BlkLegal) (h : issue op s = .next t) : t.BlkLegal := by
  rcases issue_blk op s t h with hsame | ⟨-, hone⟩ | ⟨-, hne⟩
  · rwa [State.BlkLegal, hsame]
  · exact t.blkLegal_of_blk_eq_one hone
  · exact hne

/-! ## All of them together -/

/-- The invariants do not speak of the host's side of a run (R139). -/
theorem State.Inv.of_host_side {s : State} (h : s.Inv) (ops : List Op) (replies : List Reply) :
    ({ s with ops := ops, replies := replies } : State).Inv :=
  ⟨h.buffers, h.rx, h.tx, h.legal, h.result, h.built, h.blk⟩

/-- Every operation keeps all the invariants. -/
theorem issue_keeps_inv (op : Op) (s t : State) (hs : s.Inv) (h : issue op s = .next t) : t.Inv where
  buffers := issue_keeps_buffersWf op s t hs.buffers h
  rx := issue_keeps_extentHeld_rx op s t hs.rx h
  tx := issue_keeps_extentHeld_tx op s t hs.tx h
  legal := issue_keeps_resultLegal op s t hs.legal h
  result := issue_keeps_resultMatches op s t hs.result h
  built := issue_keeps_transmitBuilt op s t hs.built h
  blk := issue_keeps_blkLegal op s t hs.blk h

/-- The state RESET leaves meets all the invariants. -/
theorem State.inv_afterReset (s : State) : s.afterReset.Inv where
  buffers := ⟨rfl, rfl⟩
  rx := s.extentHeld_afterReset .rx
  tx := s.extentHeld_afterReset .tx
  legal := State.resultLegal_of_invalid _ .empty (by decide) rfl
  result := s.resultMatches_afterReset
  built := .inl rfl
  blk := s.afterReset.blkLegal_of_blk_eq_one rfl

end Sys2Proof.Machine

namespace Sys2Proof
open Machine

/-- Settles O30: a step is an operation at a state that differs in the host's list alone, and every operation keeps each
of the invariants. -/
theorem everyStepKeepsTheInvariant : Obligations.EveryStepKeepsTheInvariant := fun s t =>
  step_keeps_of_issue_keeps s t (fun rest hs => hs.of_host_side rest s.replies) fun op u => issue_keeps_inv op u t

/-- Settles O31: every buffer an operation writes is one loaded with a frame, or an empty one. -/
theorem everyStepKeepsBuffersCanonical : Obligations.EveryStepKeepsBuffersCanonical := fun s t =>
  step_keeps_of_issue_keeps s t (fun _ hs => hs) fun op u => issue_keeps_buffersWf op u t

/-- Settles O32: neither `next` nor `prev` has the value 0, BLK.LOAD refuses it, and RESET writes 1. -/
theorem blkIsNeverZero : Obligations.BlkIsNeverZero := fun s t op => issue_keeps_blkLegal op s t

/-- Settles O33: RX and RES are written together, by DECODE and by RESET, and both write RES as the decoding. -/
theorem resultIsDecodingOfReceiveBuffer : Obligations.ResultIsDecodingOfReceiveBuffer := fun s t op =>
  issue_keeps_resultMatches op s t

/-- Settles O29: the state after power-on is what RESET leaves of it, but for the report. -/
theorem resetMeetsTheInvariant : Obligations.ResetMeetsTheInvariant :=
  ⟨State.reset.inv_afterReset.of_host_side [] [], rfl⟩

end Sys2Proof
end

