-- ==== Sys2Proof/Proofs/Runs.lean ====
section
/-! PROOFS. A step and a run (`70_reset_and_hazards.md` R139): which operation a step performs, what a DECODE of a packet
runs, and that a run of operations that can be given goes to its end. -/

namespace Sys2Proof

/-- The decoder reads a packet from a table word when the word's frame decodes to it (log entry 9). -/
theorem decodeTableWord_eq_some_iff (nbits w : Nat) (p : Instr) :
    decodeTableWord nbits w = some p ↔ decodeFrame (frameOfWord nbits w) = .packet p := by
  rw [decodeTableWord]
  cases decodeFrame (frameOfWord nbits w) <;> simp

/-- The bytes of a word are as many as are asked for (log entry 9). -/
theorem length_wordBytes (k w : Nat) : (wordBytes k w).length = k := by
  induction k generalizing w with
  | zero => rfl
  | succ k ih => rw [wordBytes, List.length_cons, ih]

/-- No header is longer than 2 bytes (R5). -/
theorem headerLen_le_two (f : Frame) : headerLen f ≤ 2 := by
  cases f with
  | nil => exact Nat.zero_le 2
  | cons op rest =>
    rw [headerLen]
    split
    · exact le_rfl
    · exact Nat.le_succ 1

/-- The frame of a table word of at most 514 bytes fits every frame buffer (R5). -/
theorem frameOfWord_length_le (c : Config) (nbits w : Nat) (h : nbits ≤ 4112) :
    (frameOfWord nbits w).length ≤ c.frameMax := by
  have hmax := c.dataFrameMax_le
  have hheader := headerLen_le_two (wordBytes ((nbits + 7) / 8) w)
  simp only [frameOfWord, List.length_append, List.length_replicate, length_wordBytes]
  omega

end Sys2Proof

namespace Sys2Proof.Machine

/-- A step performs the operation the host issues next, with it taken off the list (R38, R139). -/
theorem step_of_ops_cons (s : State) (op : Op) (rest : List Op) (h : s.ops = op :: rest) :
    step s = issue op { s with ops := rest } := by
  simp only [step, State.issueNext, h]

/-- With no operation issued a step changes nothing (R113). -/
theorem step_of_ops_nil (s : State) (h : s.ops = []) : step s = .next s := by
  simp only [step, State.issueNext, h]

/-- DECODE of a packet's frame is the packet's meaning, with the frame in RX (R65, R67). -/
theorem opDecode_eq_exec (f : Frame) (s : State) (p : Instr) (hfit : f.length ≤ s.cfg.frameMax)
    (hp : decodeFrame f = .packet p) : opDecode f s = exec p (s.loadFrame .rx f) := by
  rw [opDecode, if_pos hfit, hp]

/-- A step on a DECODE of a packet's frame is the packet's meaning (log entries 1 and 8). -/
theorem step_decode_eq_exec (s : State) (f : Frame) (rest : List Op) (p : Instr) (hops : s.ops = .decode f :: rest)
    (hfit : f.length ≤ s.cfg.frameMax) (hp : decodeFrame f = .packet p) :
    step s = exec p (State.loadFrame { s with ops := rest } .rx f) :=
  (step_of_ops_cons s _ rest hops).trans (opDecode_eq_exec f { s with ops := rest } p hfit hp)

/-- A step on an operation that can be given takes it off the list, adds one result and keeps the configuration (R139). -/
theorem step_completes (s : State) (op : Op) (rest : List Op) (hops : s.ops = op :: rest)
    (hfit : ∀ f, op = .decode f → f.length ≤ s.cfg.frameMax) :
    ∃ t, step s = .next t ∧ t.ops = rest ∧ t.replies.length = s.replies.length + 1 ∧ t.cfg = s.cfg := by
  obtain ⟨t, ht⟩ := issue_completes op { s with ops := rest } hfit
  obtain ⟨hcfg, hrest⟩ := issue_cfg_ops op _ t ht
  obtain ⟨r, hr, -⟩ := issue_replies op _ t ht
  exact ⟨t, (step_of_ops_cons s op rest hops).trans ht, hrest, by simp [hr], hcfg⟩

/-- A run from a state whose operations can all be given takes one step and returns one result for each (R139). -/
theorem run_completes (ops : List Op) (s : State) (hops : s.ops = ops)
    (hfit : ∀ f, Op.decode f ∈ ops → f.length ≤ s.cfg.frameMax) :
    ∃ t, Host.Core.run Sys2Proof.core ops.length s = .next t ∧
      t.ops = [] ∧ t.replies.length = s.replies.length + ops.length ∧ t.cfg = s.cfg := by
  induction ops generalizing s with
  | nil => exact ⟨s, rfl, hops, rfl, rfl⟩
  | cons op rest ih =>
    obtain ⟨u, hstep, hrest, hreplies, hcfg⟩ :=
      step_completes s op rest hops fun f hf => hfit f (hf ▸ List.mem_cons_self)
    obtain ⟨t, hrun, hend, hcount, hcfg'⟩ :=
      ih u hrest fun f hf => hcfg ▸ hfit f (List.mem_cons_of_mem op hf)
    refine ⟨t, (run_next rest.length s u hstep).trans hrun, hend, ?_, hcfg'.trans hcfg⟩
    rw [hcount, hreplies, List.length_cons]
    omega

end Sys2Proof.Machine

namespace Sys2Proof
open Machine

/-- Settles O35: the step is the DECODE, and the DECODE dispatches to the packet's kind parser. -/
theorem stepRunsTheDecodedPacket : Obligations.StepRunsTheDecodedPacket := step_decode_eq_exec

/-- Settles O36: the two cases of the host's list. -/
theorem stepIssuesTheNextOperation : Obligations.StepIssuesTheNextOperation := ⟨step_of_ops_cons, step_of_ops_nil⟩

/-- Settles O37: the placed word's frame fits every buffer, so the step on its DECODE is the packet's meaning. -/
theorem placedTableWordIsRun : Obligations.PlacedTableWordIsRun := fun s nbits w p hword hbits =>
  step_decode_eq_exec (s.withFetchWord nbits w) (frameOfWord nbits w) s.ops p rfl (frameOfWord_length_le s.cfg nbits w hbits)
    ((decodeTableWord_eq_some_iff nbits w p).1 hword)

/-- Settles O38: by induction on the list, each operation completing in one step. -/
theorem everyRunCompletes : Obligations.EveryRunCompletes := fun s ops hfit =>
  run_completes ops { s with ops := ops } rfl hfit

end Sys2Proof
end

