-- ==== Sys2Proof/Proofs/BlockCycle.lean ====
section
/-! PROOFS. The cycle of the block numbers (`42_sequencer.md` R98): `next` iterated, and its period. -/

namespace Sys2Proof.Machine

/-- `k` applications of `next`, from a byte that may have no value. -/
def nextIterate (k : Nat) (n : Byte) : Option Byte := Nat.iterate (fun o : Option Byte => o.bind nextBlock) k (some n)

/-- Off 0, `k` applications of `next` go `k` places on in the cycle of 1 to 255 (R96, R98). -/
theorem exists_nextIterate (n : Byte) (h : n ≠ 0#8) (k : Nat) :
    ∃ m, nextIterate k n = some m ∧ m.toNat = (n.toNat + k - 1) % 255 + 1 := by
  induction k with
  | zero => exact ⟨n, rfl, by bv_omega⟩
  | succ k ih =>
    obtain ⟨m, hm, hval⟩ := ih
    have hm0 : m ≠ 0#8 := by bv_omega
    obtain ⟨m', hm'⟩ := exists_nextBlock m hm0
    refine ⟨m', ?_, ?_⟩
    · rw [nextIterate, Function.iterate_succ_apply', ← nextIterate, hm]
      exact hm'
    · have hnext := ((nextBlock_eq_some_iff m m').1 hm').2
      have hpos : n.toNat ≠ 0 := fun h0 => h (BitVec.eq_of_toNat_eq h0)
      omega

/-- `next` has period 255 on every block number (R98). -/
theorem nextIterate_eq_self_iff (n : Byte) (h : n ≠ 0#8) (k : Nat) : nextIterate k n = some n ↔ 255 ∣ k := by
  obtain ⟨m, hm, hval⟩ := exists_nextIterate n h k
  rw [hm, Option.some_inj]
  bv_omega

/-- `next` has no fixed point (R98). -/
theorem nextBlock_ne_some_self (n : Byte) : nextBlock n ≠ some n := by
  rw [Ne, nextBlock_eq_some_iff]
  bv_omega

/-- `prev` has no fixed point, as it would be one of `next` (R98). -/
theorem prevBlock_ne_some_self (n : Byte) : prevBlock n ≠ some n := fun h =>
  nextBlock_ne_some_self n ((prevBlock_eq_some_iff_nextBlock n n).1 h)

/-- `prev` takes back what `next` did (R98). -/
theorem nextBlock_bind_prevBlock (n : Byte) (h : n ≠ 0#8) : (nextBlock n).bind prevBlock = some n := by
  obtain ⟨m, hm⟩ := exists_nextBlock n h
  rw [hm, Option.bind_some, prevBlock_eq_some_iff_nextBlock, hm]

/-- `next` takes back what `prev` did (R98). -/
theorem prevBlock_bind_nextBlock (n : Byte) (h : n ≠ 0#8) : (prevBlock n).bind nextBlock = some n := by
  obtain ⟨m, hm⟩ := exists_prevBlock n h
  rw [hm, Option.bind_some, ← prevBlock_eq_some_iff_nextBlock, hm]

end Sys2Proof.Machine

namespace Sys2Proof
open Machine

/-- Settles O24: the laws of one application, and `k` of them as a shift by `k` modulo 255. -/
theorem blockNumbersCycleWithPeriod255 : Obligations.BlockNumbersCycleWithPeriod255 :=
  ⟨fun n h => ⟨nextBlock_bind_prevBlock n h, prevBlock_bind_nextBlock n h, nextBlock_ne_some_self n,
      prevBlock_ne_some_self n, fun h0 => nextBlock_ne_zero n _ h0 rfl, fun h0 => prevBlock_ne_zero n _ h0 rfl⟩,
    fun n k h => nextIterate_eq_self_iff n h k⟩

end Sys2Proof
end

