-- ==== Sys2Proof/Proofs/DecodeParts.lean ====
section
/-! PROOFS. The parts of DECODE on their own (`40_decode.md`): the function `decode` on the spec's vectors, the kind parsers
of section 3, and the refusal at the boundary (D17). -/

namespace Sys2Proof.Machine

/-- A kind parser completes in every state: it writes RES and no other register (R68 to R71). -/
theorem exec_writes_res (p : Instr) (s : State) : ∃ t, exec p s = .next t ∧ t.res = resOf (.packet p) ∧
    s.SameRx t ∧ s.SameTx t ∧ t.blk = s.blk ∧ t.flt = s.flt ∧ t.cfg = s.cfg :=
  ⟨_, exec_eq p s, rfl, ⟨rfl, fun _ => rfl⟩, ⟨rfl, fun _ => rfl⟩, rfl, rfl, rfl⟩

end Sys2Proof.Machine

namespace Sys2Proof
open Machine

/-- Settles O1: six vectors are cases of the decoder's laws; the three bad opcodes and the two words are evaluated. -/
theorem sampleFramesDecode : Obligations.SampleFramesDecode :=
  ⟨decodeFrame_nil, decodeFrame_one _, decodeFrame_three_nil, decodeFrame_three _ _, decodeFrame_four _ _,
    decodeFrame_five _, by decide, by decide, by decide, by decide, by decide⟩

/-- Settles O3: the kind parsers' law, for RRQ and for ERROR. -/
theorem rrqAndErrorParsersComplete : Obligations.RrqAndErrorParsersComplete := fun payload s =>
  ⟨exec_writes_res (.rrq payload) s, exec_writes_res (.error payload) s⟩

/-- Settles O4: the kind parsers' law, for DATA and for ACK. -/
theorem dataAndAckParsersComplete : Obligations.DataAndAckParsersComplete := fun block payload s =>
  ⟨exec_writes_res (.data block payload) s, exec_writes_res (.ack block) s⟩

/-- Settles O10: a frame that fits has a next state, and one that does not has the refusal. -/
theorem onlyOverlongFramesAreRefused : Obligations.OnlyOverlongFramesAreRefused := by
  intro s f
  by_cases hfit : f.length ≤ s.cfg.frameMax
  · simp [opDecode_eq f s hfit, hfit]
  · simp [opDecode_refused f s hfit, Nat.lt_of_not_le hfit]

end Sys2Proof
end

