-- ==== Sys2Proof/Proofs/EncodeInputs.lean ====
section
/-! PROOFS. What ENCODE reads (`41_encode.md` R88): the packet and FRAME_MAX, and no register. -/

namespace Sys2Proof

/-- A packet is determined by its layout, since it decodes back (R86, R88). -/
theorem layout_injective : Function.Injective layout := fun p q h =>
  Parsed.packet.inj ((decodeFrame_layout p).symm.trans ((congrArg decodeFrame h).trans (decodeFrame_layout q)))

end Sys2Proof

namespace Sys2Proof.Machine

/-- Two states whose spaces hold the same frame read the same at every offset below its length. -/
theorem State.Holds.read_eq {s t : State} {sp : Space} {f : Frame} (hs : s.Holds sp f) (ht : t.Holds sp f) (a : Nat)
    (ha : a < s.extent sp) : Memory.read (s.buffer sp) a = Memory.read (t.buffer sp) a := by
  have hlt : a < f.length := hs.1 ▸ ha
  rw [hs.2 a hlt, ht.2 a hlt]

end Sys2Proof.Machine

namespace Sys2Proof
open Machine

/-- Settles O14: the frame ENCODE builds and the reason it refuses for are functions of the packet and FRAME_MAX. -/
theorem encodeReadsNoRegister : Obligations.EncodeReadsNoRegister := by
  refine ⟨fun s₁ s₂ p hcfg hvalid => ?valid, fun s₁ s₂ p hcfg hinvalid => ?refused, fun c p q f hp hq => ?injective⟩
  case valid =>
    obtain ⟨t₁, h₁, hholds₁, hframe₁, -, -, -, hflt₁, -⟩ := opEncode_builds s₁ p hvalid
    obtain ⟨t₂, h₂, hholds₂, hframe₂, -, -, -, hflt₂, -⟩ := opEncode_builds s₂ p (hcfg ▸ hvalid)
    exact ⟨t₁, t₂, h₁, h₂, hholds₁.1.trans hholds₂.1.symm, hframe₁.trans hframe₂.symm, hholds₁.read_eq hholds₂, hflt₁,
      hflt₂⟩
  case refused =>
    obtain ⟨r, hr⟩ := exists_encReason_of_not_valid s₁.cfg p hinvalid
    obtain ⟨t₁, h₁, hrefused₁⟩ := opEncode_refuses s₁ p r hr
    obtain ⟨t₂, h₂, hrefused₂⟩ := opEncode_refuses s₂ p r (hcfg ▸ hr)
    exact ⟨t₁, t₂, r, h₁, h₂, hrefused₁, hrefused₂⟩
  case injective =>
    obtain ⟨-, rfl⟩ := (encode_eq_some_iff c p f).1 hp
    exact layout_injective ((encode_eq_some_iff c q _).1 hq).2

end Sys2Proof
end

