-- ==== Sys2Proof/Proofs/UnspecifiedBytes.lean ====
section
/-! PROOFS. The bytes of a buffer the spec leaves unspecified (R12, R15, R131), which have no value in the model (log
entry 4). -/

namespace Sys2Proof.Machine

/-- No byte of a loaded buffer has a value at or above the frame's length (log entry 4). -/
theorem Memory.read_loaded_eq_none (f : Frame) (a : Nat) (h : f.length ≤ a) :
    Memory.read (Memory.writeBytes [] 0 f) a = none :=
  (Memory.read_loaded f a).trans (List.getElem?_eq_none h)

end Sys2Proof.Machine

namespace Sys2Proof
open Machine

/-- Settles O40: DECODE and ENCODE leave a buffer loaded with a frame, RESET two empty ones. -/
theorem unspecifiedBytesHaveNoValue : Obligations.UnspecifiedBytesHaveNoValue := by
  refine ⟨fun s t f h a ha => ?decode, fun s t p hvalid h a ha => ?encode, fun s t h a => ?reset⟩
  case decode =>
    obtain ⟨-, rfl⟩ := (opDecode_eq_next_iff f s t).1 h
    exact Memory.read_loaded_eq_none f a ha
  case encode =>
    rw [opEncode_valid p s hvalid] at h
    cases h
    exact Memory.read_loaded_eq_none (layout p) a ha
  case reset =>
    cases h
    exact ⟨rfl, rfl⟩

end Sys2Proof
end
